-- ==== Sys2Proof/Word.lean ====
section
/-! DEFINITION. The word types of the engine: a byte (the unit of addressing, 20_memory.md R60), the 16-bit
values of headers and colour endpoints (R70) and the 32-bit host-visible registers (10_state.md R20). -/

namespace Sys2Proof

/-- The unit of addressing of every buffer (20_memory.md R60). -/
abbrev Byte := BitVec 8

/-- A 16-bit header value `h` (30_encoding.md R94). -/
abbrev Half := BitVec 16

/-- A host-visible register (10_state.md R20). -/
abbrev Word := BitVec 32

end Sys2Proof
end

