-- ==== Sys2Proof/Config.lean ====
section
/-! DEFINITION. The parameters an implementation fixes (00_scope.md R6) and the free values of the model: the bytes
that 93_implementation_defined.md U1 and U2 leave unspecified. -/

namespace Sys2Proof

/-- The five byte buffers, each its own address space (10_state.md R29). -/
inductive Buf where
  /-- `IN`: the byte source from `source_offset`. -/
  | inB
  /-- `KEY`: the obfuscation key bytes. -/
  | key
  /-- `RB`: the reassembly buffer. -/
  | rb
  /-- `RAW`: the decompressed bytes, also the DEFLATE history. -/
  | raw
  /-- `OUT`: the decoded pixel buffer. -/
  | out
deriving DecidableEq, Repr

/-- The configuration record of 00_scope.md R6. It stands in State so that every claim is about every
configuration; no step changes it (log 5). -/
structure Config where
  /-- `IN_CAP`, capacity of `IN` in bytes. -/
  inCap : Nat
  /-- `KEY_LEN`, number of key bytes. -/
  keyLen : Nat
  /-- `RB_CAP`, capacity of `RB` in bytes. -/
  rbCap : Nat
  /-- `RAW_CAP`, capacity of `RAW` in bytes. -/
  rawCap : Nat
  /-- `OUT_CAP`, capacity of `OUT` in bytes. -/
  outCap : Nat
  /-- `ZLIB_HDR_SET`, the values that classify a payload as plain. -/
  hdrSet : List Half
deriving DecidableEq, Repr

/-- The default `ZLIB_HDR_SET` (30_encoding.md R95). -/
def Config.zlibHdrSet : List Half := [0x0178, 0x5E78, 0x9C78, 0xDA78]

/-- The parameters of State.reset. DESIGN CHOICE, unsafe (log 5): 00_scope.md R6 gives none a value; these are the ones
95_test_vectors.md runs its vectors with. -/
def Config.standard : Config :=
  { inCap := 2 ^ 20, keyLen := 16, rbCap := 2 ^ 20, rawCap := 2 ^ 20, outCap := 2 ^ 20, hdrSet := zlibHdrSet }

/-- The constraints of 00_scope.md R6 and 10_state.md R30: every size is below `2^32`, and `RB_CAP` is large enough
for reassembly never to overflow it. -/
abbrev Config.wf (c : Config) : Prop :=
  c.inCap < 2 ^ 32 ∧ c.keyLen < 2 ^ 32 ∧ c.rbCap < 2 ^ 32 ∧ c.rawCap < 2 ^ 32 ∧ c.outCap < 2 ^ 32 ∧
    (9 ≤ c.inCap → c.inCap - 9 ≤ c.rbCap)

/-- The byte an unwritten address reads as: any value (93_implementation_defined.md U1, U2). The first argument counts
the events that made the contents of the buffer unspecified, so that each such event gives fresh values (log 8, log 9). -/
opaque Config.freeByte : Nat → Buf → Nat → Byte

end Sys2Proof
end

