-- ==== Sys2Proof/Syntax.lean ====
section
/-! DEFINITION. The encodings the engine interprets: the seven formats of spec/opcode_table.json and one constructor of
Instr for each of its 88 rows (30_encoding.md R90, R113). -/

namespace Sys2Proof

/-- The value a row of the opcode table selects on (30_encoding.md R113). -/
inductive Format where
  /-- A 32-bit write to `CTRL`; bits 1:0 select (30_encoding.md R91). -/
  | cmd
  /-- The 33-bit effective format (30_encoding.md R108). -/
  | fmt
  /-- The 16-bit header value (30_encoding.md R94). -/
  | hdr16
  /-- The 2-bit `BTYPE` (30_encoding.md R98). -/
  | blkhdr
  /-- A literal/length symbol number (30_encoding.md R101). -/
  | litlen
  /-- A distance symbol number (30_encoding.md R103). -/
  | dist
  /-- A code-length symbol number (30_encoding.md R104). -/
  | clsym
deriving DecidableEq, Repr

/-- The rows of spec/opcode_table.json. A row that stands for a range of values carries the value. -/
inductive Instr where
  -- Commands, bits 1:0 of a `CTRL` write (30_encoding.md R91).
  /-- `NOP`: a `CTRL` write with neither bit set (40_host_interface.md R123). -/
  | nop
  /-- `START`: begin a decode (40_host_interface.md R121). -/
  | start
  /-- `CLEAR`: drop result and error (40_host_interface.md R122). -/
  | clear
  /-- `CLEAR_START`: CLEAR then START (40_host_interface.md R123). -/
  | clearStart
  -- Format codes, the effective format `FMT` (30_encoding.md R108).
  /-- `BGRA4444`: code 1 (43_pixel_formats.md R213). -/
  | bgra4444
  /-- `BGRA8888`: code 2 (43_pixel_formats.md R214). -/
  | bgra8888
  /-- `TILE4444`: code 3 (43_pixel_formats.md R215). -/
  | tile4444
  /-- `RGB565`: code 513 (43_pixel_formats.md R216). -/
  | rgb565
  /-- `GRAY1X16`: code 517 (43_pixel_formats.md R217). -/
  | gray1x16
  /-- `DXT3`: code 1026 (43_pixel_formats.md R218). -/
  | dxt3
  /-- `DXT5`: code 2050 (43_pixel_formats.md R219). -/
  | dxt5
  /-- `UNSUPPORTED`: any other effective format `v` (43_pixel_formats.md R220). -/
  | unsupported (v : Nat)
  -- Header values, the first two payload bytes (30_encoding.md R94, R95).
  /-- `PLAIN_0178`: header value `0x0178` (41_framing.md R141, R142). -/
  | plain0178
  /-- `PLAIN_5E78`: header value `0x5E78` (41_framing.md R141, R142). -/
  | plain5E78
  /-- `PLAIN_9C78`: header value `0x9C78` (41_framing.md R141, R142). -/
  | plain9C78
  /-- `PLAIN_DA78`: header value `0xDA78` (41_framing.md R141, R142). -/
  | plainDA78
  /-- `OBF`: any other header value `h`: obfuscated framing (41_framing.md R142, R144). -/
  | obf (h : Half)
  -- DEFLATE block types, `BTYPE` (30_encoding.md R98).
  /-- `STORED`: a stored block (42_deflate.md R167). -/
  | stored
  /-- `FIXED`: a block in the fixed codes (42_deflate.md R168). -/
  | fixed
  /-- `DYNAMIC`: a block with its own codes (42_deflate.md R173, R174). -/
  | dynamic
  /-- `BTYPE_RESERVED`: the reserved block type (42_deflate.md R166). -/
  | btypeReserved
  -- Literal/length symbols (30_encoding.md R101, R102).
  /-- `LIT`: the literal byte `b`, symbols 0..255 (42_deflate.md R178). -/
  | lit (b : Byte)
  /-- `EOB`: end of block, symbol 256 (42_deflate.md R178). -/
  | eob
  /-- `LEN257`: a match length, base 3, 0 extra bits (42_deflate.md R179). -/
  | len257
  /-- `LEN258`: a match length, base 4, 0 extra bits (42_deflate.md R179). -/
  | len258
  /-- `LEN259`: a match length, base 5, 0 extra bits (42_deflate.md R179). -/
  | len259
  /-- `LEN260`: a match length, base 6, 0 extra bits (42_deflate.md R179). -/
  | len260
  /-- `LEN261`: a match length, base 7, 0 extra bits (42_deflate.md R179). -/
  | len261
  /-- `LEN262`: a match length, base 8, 0 extra bits (42_deflate.md R179). -/
  | len262
  /-- `LEN263`: a match length, base 9, 0 extra bits (42_deflate.md R179). -/
  | len263
  /-- `LEN264`: a match length, base 10, 0 extra bits (42_deflate.md R179). -/
  | len264
  /-- `LEN265`: a match length, base 11, 1 extra bits (42_deflate.md R179). -/
  | len265
  /-- `LEN266`: a match length, base 13, 1 extra bits (42_deflate.md R179). -/
  | len266
  /-- `LEN267`: a match length, base 15, 1 extra bits (42_deflate.md R179). -/
  | len267
  /-- `LEN268`: a match length, base 17, 1 extra bits (42_deflate.md R179). -/
  | len268
  /-- `LEN269`: a match length, base 19, 2 extra bits (42_deflate.md R179). -/
  | len269
  /-- `LEN270`: a match length, base 23, 2 extra bits (42_deflate.md R179). -/
  | len270
  /-- `LEN271`: a match length, base 27, 2 extra bits (42_deflate.md R179). -/
  | len271
  /-- `LEN272`: a match length, base 31, 2 extra bits (42_deflate.md R179). -/
  | len272
  /-- `LEN273`: a match length, base 35, 3 extra bits (42_deflate.md R179). -/
  | len273
  /-- `LEN274`: a match length, base 43, 3 extra bits (42_deflate.md R179). -/
  | len274
  /-- `LEN275`: a match length, base 51, 3 extra bits (42_deflate.md R179). -/
  | len275
  /-- `LEN276`: a match length, base 59, 3 extra bits (42_deflate.md R179). -/
  | len276
  /-- `LEN277`: a match length, base 67, 4 extra bits (42_deflate.md R179). -/
  | len277
  /-- `LEN278`: a match length, base 83, 4 extra bits (42_deflate.md R179). -/
  | len278
  /-- `LEN279`: a match length, base 99, 4 extra bits (42_deflate.md R179). -/
  | len279
  /-- `LEN280`: a match length, base 115, 4 extra bits (42_deflate.md R179). -/
  | len280
  /-- `LEN281`: a match length, base 131, 5 extra bits (42_deflate.md R179). -/
  | len281
  /-- `LEN282`: a match length, base 163, 5 extra bits (42_deflate.md R179). -/
  | len282
  /-- `LEN283`: a match length, base 195, 5 extra bits (42_deflate.md R179). -/
  | len283
  /-- `LEN284`: a match length, base 227, 5 extra bits (42_deflate.md R179). -/
  | len284
  /-- `LEN285`: a match length, base 258, 0 extra bits (42_deflate.md R179). -/
  | len285
  /-- `LITLEN_INVALID`: symbol `v`, 286 or 287 (42_deflate.md R179). -/
  | litlenInvalid (v : Nat)
  -- Distance symbols (30_encoding.md R103).
  /-- `DIST0`: a match distance, base 1, 0 extra bits (42_deflate.md R180). -/
  | dist0
  /-- `DIST1`: a match distance, base 2, 0 extra bits (42_deflate.md R180). -/
  | dist1
  /-- `DIST2`: a match distance, base 3, 0 extra bits (42_deflate.md R180). -/
  | dist2
  /-- `DIST3`: a match distance, base 4, 0 extra bits (42_deflate.md R180). -/
  | dist3
  /-- `DIST4`: a match distance, base 5, 1 extra bits (42_deflate.md R180). -/
  | dist4
  /-- `DIST5`: a match distance, base 7, 1 extra bits (42_deflate.md R180). -/
  | dist5
  /-- `DIST6`: a match distance, base 9, 2 extra bits (42_deflate.md R180). -/
  | dist6
  /-- `DIST7`: a match distance, base 13, 2 extra bits (42_deflate.md R180). -/
  | dist7
  /-- `DIST8`: a match distance, base 17, 3 extra bits (42_deflate.md R180). -/
  | dist8
  /-- `DIST9`: a match distance, base 25, 3 extra bits (42_deflate.md R180). -/
  | dist9
  /-- `DIST10`: a match distance, base 33, 4 extra bits (42_deflate.md R180). -/
  | dist10
  /-- `DIST11`: a match distance, base 49, 4 extra bits (42_deflate.md R180). -/
  | dist11
  /-- `DIST12`: a match distance, base 65, 5 extra bits (42_deflate.md R180). -/
  | dist12
  /-- `DIST13`: a match distance, base 97, 5 extra bits (42_deflate.md R180). -/
  | dist13
  /-- `DIST14`: a match distance, base 129, 6 extra bits (42_deflate.md R180). -/
  | dist14
  /-- `DIST15`: a match distance, base 193, 6 extra bits (42_deflate.md R180). -/
  | dist15
  /-- `DIST16`: a match distance, base 257, 7 extra bits (42_deflate.md R180). -/
  | dist16
  /-- `DIST17`: a match distance, base 385, 7 extra bits (42_deflate.md R180). -/
  | dist17
  /-- `DIST18`: a match distance, base 513, 8 extra bits (42_deflate.md R180). -/
  | dist18
  /-- `DIST19`: a match distance, base 769, 8 extra bits (42_deflate.md R180). -/
  | dist19
  /-- `DIST20`: a match distance, base 1025, 9 extra bits (42_deflate.md R180). -/
  | dist20
  /-- `DIST21`: a match distance, base 1537, 9 extra bits (42_deflate.md R180). -/
  | dist21
  /-- `DIST22`: a match distance, base 2049, 10 extra bits (42_deflate.md R180). -/
  | dist22
  /-- `DIST23`: a match distance, base 3073, 10 extra bits (42_deflate.md R180). -/
  | dist23
  /-- `DIST24`: a match distance, base 4097, 11 extra bits (42_deflate.md R180). -/
  | dist24
  /-- `DIST25`: a match distance, base 6145, 11 extra bits (42_deflate.md R180). -/
  | dist25
  /-- `DIST26`: a match distance, base 8193, 12 extra bits (42_deflate.md R180). -/
  | dist26
  /-- `DIST27`: a match distance, base 12289, 12 extra bits (42_deflate.md R180). -/
  | dist27
  /-- `DIST28`: a match distance, base 16385, 13 extra bits (42_deflate.md R180). -/
  | dist28
  /-- `DIST29`: a match distance, base 24577, 13 extra bits (42_deflate.md R180). -/
  | dist29
  /-- `DIST_INVALID`: symbol `v`, 30 or 31 (42_deflate.md R180). -/
  | distInvalid (v : Nat)
  -- Code-length symbols (30_encoding.md R104).
  /-- `CL0_15`: the next code length is `v`, symbols 0..15 (42_deflate.md R175). -/
  | cl0to15 (v : Nat)
  /-- `CL16`: repeat the previous code length (42_deflate.md R175). -/
  | cl16
  /-- `CL17`: 3 to 10 zero lengths (42_deflate.md R175). -/
  | cl17
  /-- `CL18`: 11 to 138 zero lengths (42_deflate.md R175). -/
  | cl18
deriving DecidableEq, Repr

end Sys2Proof
end

