-- ==== Sys2Proof/WellFormed.lean ====
section
/-! DEFINITION. Which terms of Instr are encodings of the opcode table: a row that stands for a range of values carries
a value of that range (30_encoding.md R113). -/

namespace Sys2Proof

/-- The seven format codes of 30_encoding.md R108. -/
def formatCodes : List Nat := [1, 2, 3, 513, 517, 1026, 2050]

/-- The instruction is the meaning of some value of its format (30_encoding.md R113). -/
def WellFormed : Instr → Bool
  | .unsupported v => v < 2 ^ 33 && !formatCodes.contains v
  | .obf h => !Config.zlibHdrSet.contains h
  | .litlenInvalid v => v == 286 || v == 287
  | .distInvalid v => v == 30 || v == 31
  | .cl0to15 v => v < 16
  | .lit _ => true
  | .nop | .start | .clear | .clearStart | .bgra4444 | .bgra8888 | .tile4444 | .rgb565 | .gray1x16 | .dxt3
    | .dxt5 | .plain0178 | .plain5E78 | .plain9C78 | .plainDA78 | .stored | .fixed | .dynamic | .btypeReserved
    | .eob | .cl16 | .cl17 | .cl18 | .len257 | .len258 | .len259 | .len260 | .len261 | .len262 | .len263
    | .len264 | .len265 | .len266 | .len267 | .len268 | .len269 | .len270 | .len271 | .len272 | .len273
    | .len274 | .len275 | .len276 | .len277 | .len278 | .len279 | .len280 | .len281 | .len282 | .len283
    | .len284 | .len285 | .dist0 | .dist1 | .dist2 | .dist3 | .dist4 | .dist5 | .dist6 | .dist7 | .dist8
    | .dist9 | .dist10 | .dist11 | .dist12 | .dist13 | .dist14 | .dist15 | .dist16 | .dist17 | .dist18
    | .dist19 | .dist20 | .dist21 | .dist22 | .dist23 | .dist24 | .dist25 | .dist26 | .dist27 | .dist28
    | .dist29 => true

end Sys2Proof
end

