-- ==== Sys2Proof/Decode.lean ====
section
/-! DEFINITION. From the value of a format to the instruction it selects, total and rejecting by name, and back
(30_encoding.md R91, R94, R95, R98, R101 to R104, R108, R113); the fixed codewords of R100; the numbering of
spec/opcode_table.json's words. -/

namespace Sys2Proof

/-- Why a value selects no row: it is outside the value space its format has (30_encoding.md R113). -/
inductive DecodeError where
  /-- More than the 32 bits of a `CTRL` write (R91). -/
  | cmdTooWide (v : Nat)
  /-- More than the 33 bits of the effective format (R113). -/
  | fmtTooWide (v : Nat)
  /-- More than the 16 bits of a header value (R94). -/
  | hdrTooWide (v : Nat)
  /-- More than the 2 bits of `BTYPE` (R98). -/
  | btypeTooWide (v : Nat)
  /-- No symbol of the literal/length alphabet 0..287 (R101). -/
  | notALitLenSymbol (v : Nat)
  /-- No symbol of the distance alphabet 0..31 (R103). -/
  | notADistSymbol (v : Nat)
  /-- No symbol of the code-length alphabet 0..18 (R104). -/
  | notAClSymbol (v : Nat)
deriving DecidableEq, Repr

/-- Format `CMD`: bits 31:2 are ignored (30_encoding.md R91). -/
def decodeCmd (v : Nat) : Except DecodeError Instr :=
  if v < 2 ^ 32 then
    match v % 4 with
    | 0 => .ok .nop
    | 1 => .ok .start
    | 2 => .ok .clear
    | _ => .ok .clearStart
  else .error (.cmdTooWide v)

/-- Format `FMT` (30_encoding.md R108). -/
def decodeFmt (v : Nat) : Except DecodeError Instr :=
  if v < 2 ^ 33 then
    match v with
    | 1 => .ok .bgra4444
    | 2 => .ok .bgra8888
    | 3 => .ok .tile4444
    | 513 => .ok .rgb565
    | 517 => .ok .gray1x16
    | 1026 => .ok .dxt3
    | 2050 => .ok .dxt5
    | v => .ok (.unsupported v)
  else .error (.fmtTooWide v)

/-- Format `HDR16` (30_encoding.md R94, R95). -/
def decodeHdr (v : Nat) : Except DecodeError Instr :=
  if v < 2 ^ 16 then
    match v with
    | 0x0178 => .ok .plain0178
    | 0x5E78 => .ok .plain5E78
    | 0x9C78 => .ok .plain9C78
    | 0xDA78 => .ok .plainDA78
    | v => .ok (.obf (BitVec.ofNat 16 v))
  else .error (.hdrTooWide v)

/-- Format `BLKHDR`: the field `BTYPE` (30_encoding.md R98). -/
def decodeBlkhdr (v : Nat) : Except DecodeError Instr :=
  match v with
  | 0 => .ok .stored
  | 1 => .ok .fixed
  | 2 => .ok .dynamic
  | 3 => .ok .btypeReserved
  | v => .error (.btypeTooWide v)

/-- Format `LITLEN`: a literal/length symbol (30_encoding.md R101, R102). -/
def decodeLitlen (v : Nat) : Except DecodeError Instr :=
  if v < 256 then .ok (.lit (BitVec.ofNat 8 v))
  else
    match v with
    | 256 => .ok .eob
    | 257 => .ok .len257
    | 258 => .ok .len258
    | 259 => .ok .len259
    | 260 => .ok .len260
    | 261 => .ok .len261
    | 262 => .ok .len262
    | 263 => .ok .len263
    | 264 => .ok .len264
    | 265 => .ok .len265
    | 266 => .ok .len266
    | 267 => .ok .len267
    | 268 => .ok .len268
    | 269 => .ok .len269
    | 270 => .ok .len270
    | 271 => .ok .len271
    | 272 => .ok .len272
    | 273 => .ok .len273
    | 274 => .ok .len274
    | 275 => .ok .len275
    | 276 => .ok .len276
    | 277 => .ok .len277
    | 278 => .ok .len278
    | 279 => .ok .len279
    | 280 => .ok .len280
    | 281 => .ok .len281
    | 282 => .ok .len282
    | 283 => .ok .len283
    | 284 => .ok .len284
    | 285 => .ok .len285
    | 286 => .ok (.litlenInvalid 286)
    | 287 => .ok (.litlenInvalid 287)
    | v => .error (.notALitLenSymbol v)

/-- Format `DIST`: a distance symbol (30_encoding.md R103). -/
def decodeDist (v : Nat) : Except DecodeError Instr :=
    match v with
    | 0 => .ok .dist0
    | 1 => .ok .dist1
    | 2 => .ok .dist2
    | 3 => .ok .dist3
    | 4 => .ok .dist4
    | 5 => .ok .dist5
    | 6 => .ok .dist6
    | 7 => .ok .dist7
    | 8 => .ok .dist8
    | 9 => .ok .dist9
    | 10 => .ok .dist10
    | 11 => .ok .dist11
    | 12 => .ok .dist12
    | 13 => .ok .dist13
    | 14 => .ok .dist14
    | 15 => .ok .dist15
    | 16 => .ok .dist16
    | 17 => .ok .dist17
    | 18 => .ok .dist18
    | 19 => .ok .dist19
    | 20 => .ok .dist20
    | 21 => .ok .dist21
    | 22 => .ok .dist22
    | 23 => .ok .dist23
    | 24 => .ok .dist24
    | 25 => .ok .dist25
    | 26 => .ok .dist26
    | 27 => .ok .dist27
    | 28 => .ok .dist28
    | 29 => .ok .dist29
    | 30 => .ok (.distInvalid 30)
    | 31 => .ok (.distInvalid 31)
    | v => .error (.notADistSymbol v)

/-- Format `CLSYM`: a code-length symbol (30_encoding.md R104). -/
def decodeClsym (v : Nat) : Except DecodeError Instr :=
  if v < 16 then .ok (.cl0to15 v)
  else
    match v with
    | 16 => .ok .cl16
    | 17 => .ok .cl17
    | 18 => .ok .cl18
    | v => .error (.notAClSymbol v)

/-- The instruction that the value `v` of format `f` selects (30_encoding.md R113). -/
def decode (f : Format) (v : Nat) : Except DecodeError Instr :=
  match f with
  | .cmd => decodeCmd v
  | .fmt => decodeFmt v
  | .hdr16 => decodeHdr v
  | .blkhdr => decodeBlkhdr v
  | .litlen => decodeLitlen v
  | .dist => decodeDist v
  | .clsym => decodeClsym v

/-- The format and the value of an instruction, read from the opcode table's `format` and `match` columns
(30_encoding.md R113); of a `CTRL` write the value with the ignored bits 0. -/
def encode : Instr → Format × Nat
  | .nop => (.cmd, 0)
  | .start => (.cmd, 1)
  | .clear => (.cmd, 2)
  | .clearStart => (.cmd, 3)
  | .bgra4444 => (.fmt, 1)
  | .bgra8888 => (.fmt, 2)
  | .tile4444 => (.fmt, 3)
  | .rgb565 => (.fmt, 0x201)
  | .gray1x16 => (.fmt, 0x205)
  | .dxt3 => (.fmt, 0x402)
  | .dxt5 => (.fmt, 0x802)
  | .unsupported v => (.fmt, v)
  | .plain0178 => (.hdr16, 0x0178)
  | .plain5E78 => (.hdr16, 0x5E78)
  | .plain9C78 => (.hdr16, 0x9C78)
  | .plainDA78 => (.hdr16, 0xDA78)
  | .obf h => (.hdr16, h.toNat)
  | .stored => (.blkhdr, 0)
  | .fixed => (.blkhdr, 1)
  | .dynamic => (.blkhdr, 2)
  | .btypeReserved => (.blkhdr, 3)
  | .lit b => (.litlen, b.toNat)
  | .eob => (.litlen, 256)
  | .len257 => (.litlen, 257)
  | .len258 => (.litlen, 258)
  | .len259 => (.litlen, 259)
  | .len260 => (.litlen, 260)
  | .len261 => (.litlen, 261)
  | .len262 => (.litlen, 262)
  | .len263 => (.litlen, 263)
  | .len264 => (.litlen, 264)
  | .len265 => (.litlen, 265)
  | .len266 => (.litlen, 266)
  | .len267 => (.litlen, 267)
  | .len268 => (.litlen, 268)
  | .len269 => (.litlen, 269)
  | .len270 => (.litlen, 270)
  | .len271 => (.litlen, 271)
  | .len272 => (.litlen, 272)
  | .len273 => (.litlen, 273)
  | .len274 => (.litlen, 274)
  | .len275 => (.litlen, 275)
  | .len276 => (.litlen, 276)
  | .len277 => (.litlen, 277)
  | .len278 => (.litlen, 278)
  | .len279 => (.litlen, 279)
  | .len280 => (.litlen, 280)
  | .len281 => (.litlen, 281)
  | .len282 => (.litlen, 282)
  | .len283 => (.litlen, 283)
  | .len284 => (.litlen, 284)
  | .len285 => (.litlen, 285)
  | .litlenInvalid v => (.litlen, v)
  | .dist0 => (.dist, 0)
  | .dist1 => (.dist, 1)
  | .dist2 => (.dist, 2)
  | .dist3 => (.dist, 3)
  | .dist4 => (.dist, 4)
  | .dist5 => (.dist, 5)
  | .dist6 => (.dist, 6)
  | .dist7 => (.dist, 7)
  | .dist8 => (.dist, 8)
  | .dist9 => (.dist, 9)
  | .dist10 => (.dist, 10)
  | .dist11 => (.dist, 11)
  | .dist12 => (.dist, 12)
  | .dist13 => (.dist, 13)
  | .dist14 => (.dist, 14)
  | .dist15 => (.dist, 15)
  | .dist16 => (.dist, 16)
  | .dist17 => (.dist, 17)
  | .dist18 => (.dist, 18)
  | .dist19 => (.dist, 19)
  | .dist20 => (.dist, 20)
  | .dist21 => (.dist, 21)
  | .dist22 => (.dist, 22)
  | .dist23 => (.dist, 23)
  | .dist24 => (.dist, 24)
  | .dist25 => (.dist, 25)
  | .dist26 => (.dist, 26)
  | .dist27 => (.dist, 27)
  | .dist28 => (.dist, 28)
  | .dist29 => (.dist, 29)
  | .distInvalid v => (.dist, v)
  | .cl0to15 v => (.clsym, v)
  | .cl16 => (.clsym, 16)
  | .cl17 => (.clsym, 17)
  | .cl18 => (.clsym, 18)

/-- The `k`-bit binary of `v`, most significant bit first: how a codeword is written and sent (30_encoding.md R113,
42_deflate.md R163). -/
def msbFirst : Nat → Nat → List Bool
  | 0, _ => []
  | k + 1, v => v.testBit k :: msbFirst k v

/-- The codeword of a literal/length symbol in a FIXED block, as 30_encoding.md R100 writes it out. -/
def fixedLitlenCode (s : Nat) : List Bool :=
  if s < 144 then msbFirst 8 (0b00110000 + s)
  else if s < 256 then msbFirst 9 (0b110010000 + (s - 144))
  else if s < 280 then msbFirst 7 (s - 256)
  else msbFirst 8 (0b11000000 + (s - 280))

/-- The codeword of a distance symbol in a FIXED block: its 5-bit binary (30_encoding.md R100). -/
def fixedDistCode (d : Nat) : List Bool := msbFirst 5 d

/-- The format and value of a word numbered as spec/opcode_table.json numbers it. DESIGN CHOICE (log 3): the table gives
the rows of one format disjoint words, the rows of two formats equal ones, and no word says its format; the machine knows
the format from its place in a decode. Words of a width that several formats share are taken as the outermost format that
has the value, block header values and code-length symbols excepted where only their own table width tells them apart. -/
def tableFormat (nbits w : Nat) : Option (Format × Nat) :=
  if nbits = 8 then
    if w < 4 then some (.cmd, w)
    else if w < 32 then some (.dist, w)
    else none
  else if nbits = 16 then
    if w % 2 ^ 11 = 3 ∧ w / 2 ^ 12 = 0 then some (.blkhdr, 3)
    else if w < 288 then some (.litlen, w)
    else if w < 2 ^ 16 then some (.hdr16, w)
    else none
  else if nbits = 24 then
    if w.testBit 7 ∧ w % 32 = 18 then some (.clsym, 18)
    else if 18 ≤ w % 32 ∧ w % 32 < 24 then some (.dist, w % 32)
    else none
  else if nbits = 32 then
    if 24 ≤ w % 32 ∧ w % 32 < 30 ∧ w.testBit (w % 32) then some (.dist, w % 32)
    else if 24 ≤ w ∧ w < 30 then some (.dist, w)
    else if w < 2 ^ 32 then some (.cmd, w)
    else none
  else if nbits = 40 then
    if w < 2 ^ 33 then some (.fmt, w) else none
  else none

/-- The instruction the decoder reads from a word numbered as spec/opcode_table.json numbers it (log 3). -/
def decodeTableWord (nbits w : Nat) : Option Instr :=
  match tableFormat nbits w with
  | none => none
  | some (f, v) =>
    match decode f v with
    | .ok i => some i
    | .error _ => none

end Sys2Proof
end

