-- ==== Sys2Proof/Machine/State.lean ====
section
/-! DEFINITION. The state of the engine and the host beside it, as 10_state.md lists it, with its reset values, and the
reasons a step can stop. -/

namespace Sys2Proof.Machine

/-- The bytes of a buffer that something has written, as (index, byte) pairs with strictly rising indices. An unlisted
index has no written value: it reads as a free value (log 8, log 9). -/
abbrev Mem := List Host.Cell

/-- The sequencer phase (10_state.md R34). -/
inductive Phase where
  /-- Nothing to do. -/
  | idle
  /-- Read `L` and the pad byte, compute `P`. -/
  | fetch
  /-- Compute `FMT`, `N`, the output size, check them. -/
  | dispatch
  /-- Read the 16-bit header. -/
  | classify
  /-- Strip records into `RB`. -/
  | strip
  /-- Decompress `Z[2..)` into `RAW`. -/
  | inflate
  /-- Write `OUT` from `RAW`. -/
  | repack
  /-- The last decode ended without error. -/
  | done
  /-- The last decode ended with a decode error. -/
  | error
deriving DecidableEq, Repr

/-- The place inside INFLATE, the model's form of the control flow of 42_deflate.md R160, R175, R178 (log 11). -/
inductive InflateSub where
  /-- Before `BITPOS <- 16` (R160). -/
  | entry
  /-- Before a block header (R166). -/
  | header
  /-- In the loop of R175 over the code lengths. -/
  | codeLens
  /-- At the head of the symbol loop of R178. -/
  | litlen
  /-- Between a length symbol and its distance symbol (R180). -/
  | dist
deriving DecidableEq, Repr

/-- The error codes of 60_exceptions.md R285, `ERR_NONE` aside. -/
inductive ErrCode where
  /-- `ERR_SOURCE` (R286). -/
  | source
  /-- `ERR_FORMAT` (R287). -/
  | format
  /-- `ERR_DIM` (R288). -/
  | dim
  /-- `ERR_CAP` (R289). -/
  | cap
  /-- `ERR_FRAMING` (R291). -/
  | framing
  /-- `ERR_KEY` (R292). -/
  | key
  /-- `ERR_TRUNC` (R294). -/
  | trunc
  /-- `ERR_STREAM` (R295). -/
  | stream
deriving DecidableEq, Repr

/-- A colour: the triple `(R, G, B)` of bytes of a colour table entry (10_state.md R37, 44_dxt.md). -/
structure Colour where
  /-- Red. -/
  r : Byte
  /-- Green. -/
  g : Byte
  /-- Blue. -/
  b : Byte
deriving DecidableEq, Repr

/-- What the outside can do to the engine: the five host moves of 40_host_interface.md R120, the `STATUS` read that is
allowed while busy (70_reset_and_hazards.md R324) and reset (R320). -/
inductive HostMove where
  /-- Write `v` to register number `r` (10_state.md R20); register 0 is `CTRL`. -/
  | writeReg (r : Nat) (v : Word)
  /-- Write byte `v` to `IN[a]`. -/
  | writeIn (a : Nat) (v : Byte)
  /-- Write byte `v` to `KEY[a]`. -/
  | writeKey (a : Nat) (v : Byte)
  /-- Read register number `r`. -/
  | readReg (r : Nat)
  /-- Read `OUT[a]`. -/
  | readOut (a : Nat)
  /-- Read `STATUS` at once, busy or not. -/
  | pollStatus
  /-- Reset, at any time. -/
  | reset
deriving DecidableEq, Repr

/-- Why the model stops. Every one is safe: the model does less than a machine that goes on would. -/
inductive Fault where
  /-- Raised by the one load and the one store of Machine/Ops.lean at an index at or beyond the buffer's capacity, which does
  not exist (10_state.md R29). Safe. No decode of a well-formed state reaches it (00_scope.md R10). -/
  | addressOutside (b : Buf) (a : Nat)
  /-- Raised by a host access to a register number above 9 (10_state.md R20). Safe. -/
  | registerOutside (r : Nat)
  /-- Raised by the fetch when a code table longer than its alphabet yields a number that is no symbol of it. Safe. No state
  whose tables have the sizes of 10_state.md R36 reaches it. -/
  | undecodable (e : DecodeError)
deriving DecidableEq, Repr

/-- What the model refuses to give a meaning. -/
inductive Refusal where
  /-- Raised by an arm of exec whose instruction has no meaning yet. Safe. -/
  | notModelled (mnemonic : String)
  /-- Raised by a command written to `CTRL` while `STATUS.BUSY = 1`, a move the host does not have (10_state.md R21,
  93_implementation_defined.md U6 `refuse`). Safe. -/
  | commandWhileBusy
  /-- Raised by a host write to `STATUS`, `ERR`, `OUT_LEN` or `OUT_FMT`, a move the host does not have
  (93_implementation_defined.md U7 `refuse`). Safe. -/
  | readOnlyRegister (r : Nat)
deriving DecidableEq, Repr

/-- The state: registers, buffers, sequencer, working tables (10_state.md R20 to R37), and the model's own fields. -/
structure State where
  /-- The parameters of 00_scope.md R6; no step changes them (log 5). -/
  cfg : Config
  /-- `STATUS`, register 1 (R22). -/
  status : Word
  /-- `ERR`, register 2 (R23). -/
  err : Word
  /-- `WIDTH`, register 3 (R24). -/
  width : Word
  /-- `HEIGHT`, register 4 (R24). -/
  height : Word
  /-- `FMT_PRI`, register 5 (R25). -/
  fmtPri : Word
  /-- `FMT_SEC`, register 6 (R25). -/
  fmtSec : Word
  /-- `IN_LEN`, register 7 (R26). -/
  inLen : Word
  /-- `OUT_LEN`, register 8 (R27). -/
  outLen : Word
  /-- `OUT_FMT`, register 9 (R28). -/
  outFmt : Word
  /-- `IN` (R29). -/
  inBuf : Mem
  /-- `KEY` (R29, R31). -/
  keyBuf : Mem
  /-- `RB` (R29). -/
  rb : Mem
  /-- `RAW` (R29). -/
  raw : Mem
  /-- `OUT` (R29). -/
  out : Mem
  /-- `PHASE` (R34). -/
  phase : Phase
  /-- `P`, payload length (R33). -/
  p : Nat
  /-- `FMT`, effective format (R33). -/
  fmt : Nat
  /-- `N`, raw size (R33). -/
  n : Nat
  /-- `IN_POS`, cursor into the payload (R33). -/
  inPos : Nat
  /-- `RB_LEN`, bytes reassembled (R33). -/
  rbLen : Nat
  /-- `Z_LEN`, length of the stream `Z` (R33). -/
  zLen : Nat
  /-- `BITPOS`, bit cursor into `Z` (R33). -/
  bitPos : Nat
  /-- `RAW_POS`, bytes decompressed (R33). -/
  rawPos : Nat
  /-- `BFINAL` of the current block (R33). -/
  bfinal : Nat
  /-- `BTYPE` of the current block (R33). -/
  btype : Nat
  /-- `LL_LEN[0..287]` (R36). -/
  llLen : List Nat
  /-- `D_LEN[0..31]` (R36). -/
  dLen : List Nat
  /-- `CL_LEN[0..18]` (R36). -/
  clLen : List Nat
  /-- `CT[0..3]` (R37). -/
  ct : List Colour
  /-- `CIDX[0..15]` (R37). -/
  cidx : List Nat
  /-- `AT[0..15]` (R37). -/
  alphaTab : List Byte
  /-- `AIDX[0..15]` (R37). -/
  aidx : List Nat
  /-- The place inside INFLATE (log 11). -/
  sub : InflateSub
  /-- `nlen` of 42_deflate.md R173 (log 11). -/
  nlen : Nat
  /-- `ndist` of 42_deflate.md R173 (log 11). -/
  ndist : Nat
  /-- `lens[0..i)` of 42_deflate.md R175; its length is the cursor `i` (log 11). -/
  lens : List Nat
  /-- `len` of 42_deflate.md R179, held until the distance is read (log 11). -/
  matchLen : Nat
  /-- The model's own: the host's pending moves, oldest first (log 2). -/
  host : List HostMove
  /-- The model's own: what the host's last read returned (log 12). -/
  rdata : Word
  /-- The model's own: the index of the free values of `IN` and `KEY` (log 8). -/
  resets : Nat
  /-- The model's own: the index of the free values of `RB`, `RAW` and `OUT` (log 9). -/
  forgets : Nat
deriving DecidableEq, Repr

/-- The engine right after reset, for given parameters (10_state.md R39, 70_reset_and_hazards.md R320): `PHASE = IDLE`,
the registers 0, no byte of any buffer written. The internal variables and working tables, which R39 leaves unspecified,
are 0. DESIGN CHOICE, unsafe (log 7). -/
def State.resetWith (c : Config) : State :=
  { cfg := c
    status := 0, err := 0, width := 0, height := 0, fmtPri := 0, fmtSec := 0, inLen := 0, outLen := 0, outFmt := 0
    inBuf := [], keyBuf := [], rb := [], raw := [], out := []
    phase := .idle
    p := 0, fmt := 0, n := 0, inPos := 0, rbLen := 0, zLen := 0, bitPos := 0, rawPos := 0, bfinal := 0, btype := 0
    llLen := List.replicate 288 0, dLen := List.replicate 32 0, clLen := List.replicate 19 0
    ct := List.replicate 4 { r := 0, g := 0, b := 0 }
    cidx := List.replicate 16 0, alphaTab := List.replicate 16 0, aidx := List.replicate 16 0
    sub := .entry, nlen := 0, ndist := 0, lens := [], matchLen := 0
    host := [], rdata := 0, resets := 0, forgets := 0 }

/-- The machine right after reset, with the parameters of log 5. -/
def State.reset : State := State.resetWith Config.standard

end Sys2Proof.Machine
end

