-- ==== Sys2Proof/Machine/Flags.lean ====
section
/-! DEFINITION. The bits of `STATUS` (10_state.md R22), the numbers of the error codes (60_exceptions.md R285) and the
phases in which the engine is busy (10_state.md R34). -/

namespace Sys2Proof.Machine

/-- `STATUS.BUSY`, bit 0 (10_state.md R22). -/
def statusBusy : Word := 1

/-- `STATUS.DONE`, bit 1 (10_state.md R22). -/
def statusDone : Word := 2

/-- `STATUS.ERROR`, bit 2 (10_state.md R22). -/
def statusError : Word := 4

/-- `STATUS.EMPTY`, bit 3 (10_state.md R22). -/
def statusEmpty : Word := 8

/-- `STATUS.OBF`, bit 4 (10_state.md R22). -/
def statusObf : Word := 16

/-- `STATUS.BUSY = 1`. -/
def State.busy (s : State) : Bool := s.status.getLsbD 0

/-- `STATUS.DONE = 1`. -/
def State.isDone (s : State) : Bool := s.status.getLsbD 1

/-- `STATUS.ERROR = 1`. -/
def State.isError (s : State) : Bool := s.status.getLsbD 2

/-- `STATUS.EMPTY = 1`. -/
def State.isEmpty (s : State) : Bool := s.status.getLsbD 3

/-- `STATUS.OBF = 1`. -/
def State.isObf (s : State) : Bool := s.status.getLsbD 4

/-- The `OBF` bit of `STATUS` as it stands, the other bits 0. -/
def State.obfPart (s : State) : Word := s.status &&& statusObf

/-- The number of an error code (60_exceptions.md R285). -/
def ErrCode.code : ErrCode → Word
  | .source => 1
  | .format => 2
  | .dim => 3
  | .cap => 4
  | .framing => 5
  | .key => 6
  | .trunc => 7
  | .stream => 8

/-- The phases of a running decode (10_state.md R34). -/
def Phase.running : Phase → Bool
  | .idle | .done | .error => false
  | .fetch | .dispatch | .classify | .strip | .inflate | .repack => true

end Sys2Proof.Machine
end

