-- ==== Sys2Proof/Machine/Ops.lean ====
section
/-! DEFINITION. The operations over memory and registers that every meaning is written with: byte access to the five
buffers (00_scope.md R10, 20_memory.md R60), the result of an operation and its sequencing, the loop of R11, taking a
decode error and leaving it (60_exceptions.md R290, R297), the host's register accesses (10_state.md R20). -/

namespace Sys2Proof.Machine

/-- What an operation of the engine comes to: it goes on with a value, it raises a decode error (00_scope.md R11), or the
model stops. The state of an `err` is the one at the moment of the `raise`. -/
inductive Res (α : Type) where
  /-- The operation is complete. -/
  | ok (a : α) (s : State)
  /-- `raise`: nothing after it executes. -/
  | err (e : ErrCode) (s : State)
  /-- The model stops with a fault. -/
  | fault (f : Fault)
  /-- The model refuses. -/
  | refuse (r : Refusal)

/-- First `r`, then, if it is complete, `k`. -/
def Res.andThen {α β : Type} (r : Res α) (k : α → State → Res β) : Res β :=
  match r with
  | .ok a s => k a s
  | .err e s => .err e s
  | .fault f => .fault f
  | .refuse x => .refuse x

/-- `for i in a..a+n-1` (00_scope.md R11). -/
def forUp : (n a : Nat) → (Nat → State → Res Unit) → State → Res Unit
  | 0, _, _, s => .ok () s
  | n + 1, a, body, s => (body a s).andThen fun _ t => forUp n (a + 1) body t

/-! ## Buffers -/

/-- The byte something has written at index `a`, if any. -/
def Mem.get? : Mem → Nat → Option Byte
  | [], _ => none
  | (k, v) :: m, a => if a = k then some v else if a < k then none else Mem.get? m a

/-- Byte `v` written at index `a`, the indices kept strictly rising. -/
def Mem.put : Mem → Nat → Byte → Mem
  | [], a, v => [(a, v)]
  | (k, w) :: m, a, v =>
    if a = k then (a, v) :: m else if a < k then (a, v) :: (k, w) :: m else (k, w) :: Mem.put m a v

/-- Every index of the list is at least `lo`, and they rise strictly. -/
def Mem.risesFrom : Nat → Mem → Bool
  | _, [] => true
  | lo, (k, _) :: m => decide (lo ≤ k) && Mem.risesFrom (k + 1) m

/-- The canonical form of a buffer's contents: strictly rising indices. -/
def Mem.wf (m : Mem) : Bool := Mem.risesFrom 0 m

/-- The written bytes of a buffer. -/
def State.mem (s : State) : Buf → Mem
  | .inB => s.inBuf
  | .key => s.keyBuf
  | .rb => s.rb
  | .raw => s.raw
  | .out => s.out

/-- The state with the written bytes of a buffer replaced. -/
def State.setMem (s : State) (b : Buf) (m : Mem) : State :=
  match b with
  | .inB => { s with inBuf := m }
  | .key => { s with keyBuf := m }
  | .rb => { s with rb := m }
  | .raw => { s with raw := m }
  | .out => { s with out := m }

/-- The size of a buffer (10_state.md R29). -/
def State.capOf (s : State) : Buf → Nat
  | .inB => s.cfg.inCap
  | .key => s.cfg.keyLen
  | .rb => s.cfg.rbCap
  | .raw => s.cfg.rawCap
  | .out => s.cfg.outCap

/-- Which of the free values an unwritten byte of the buffer reads as: `IN` and `KEY` keep theirs from reset to reset
(93_implementation_defined.md U1, log 8), the engine's buffers from one loss of contents to the next (U2, log 9). -/
def State.ageOf (s : State) : Buf → Nat
  | .inB => s.resets
  | .key => s.resets
  | .rb => s.forgets
  | .raw => s.forgets
  | .out => s.forgets

/-- The byte at index `a`: "a read returns the last value written to that byte" (20_memory.md R60), any value where
nothing has been written (93_implementation_defined.md U1, U2). -/
def State.byteAt (s : State) (b : Buf) (a : Nat) : Byte :=
  match (s.mem b).get? a with
  | some v => v
  | none => Config.freeByte (s.ageOf b) b a

/-- Read the byte at index `a`; an index at or beyond the capacity does not exist (10_state.md R29, log 13). -/
def load (b : Buf) (a : Nat) (s : State) : Res Byte :=
  if a < s.capOf b then .ok (s.byteAt b a) s else .fault (.addressOutside b a)

/-- Write the byte at index `a`; an index at or beyond the capacity does not exist (10_state.md R29, log 13). -/
def store (b : Buf) (a : Nat) (v : Byte) (s : State) : Res Unit :=
  if a < s.capOf b then .ok () (s.setMem b ((s.mem b).put a v)) else .fault (.addressOutside b a)

/-- `MemRead(BUF, a, n)`, little-endian (00_scope.md R10). -/
def memRead (b : Buf) (a : Nat) : Nat → State → Res Nat
  | 0, s => .ok 0 s
  | n + 1, s =>
    (load b a s).andThen fun v s1 =>
    (memRead b (a + 1) n s1).andThen fun rest s2 =>
    .ok (v.toNat + 256 * rest) s2

/-! ## Numbers and bit fields -/

/-- The field `v[hi:lo]` (00_scope.md R9): `(v >> lo) & (2^(hi-lo+1) - 1)`. -/
def field (hi lo v : Nat) : Nat := (v >>> lo) % 2 ^ (hi - lo + 1)

/-- The low nibble (00_scope.md R9). -/
def lo4 (b : Byte) : Nat := field 3 0 b.toNat

/-- The high nibble (00_scope.md R9). -/
def hi4 (b : Byte) : Nat := field 7 4 b.toNat

/-- Nibble replication: `n | (n << 4)` (00_scope.md R9). -/
def rep4 (n : Nat) : Byte := BitVec.ofNat 8 (n ||| (n <<< 4))

/-- `s32(v)`: a natural below `2^32` as a signed number (00_scope.md R10). -/
def s32 (v : Nat) : Int := if v < 2 ^ 31 then (v : Int) else (v : Int) - 2 ^ 32

/-- `ceil(a/4)` (00_scope.md R8). -/
def ceil4 (a : Nat) : Nat := (a + 3) / 4

/-! ## Contents that become unspecified -/

/-- `RB`, `RAW` and `OUT` lose their contents: from here every byte of them is any value until it is written again
(93_implementation_defined.md U2, log 9). -/
def State.forget (s : State) : State :=
  { s with rb := [], raw := [], out := [], forgets := s.forgets + 1 }

/-- `RB` and `RAW` lose their contents, `OUT` keeps what was written (93_implementation_defined.md U2, log 9). -/
def State.forgetScratch (s : State) : State :=
  { s with rb := [], raw := [], forgets := s.forgets + 1 }

/-! ## Taking a decode error, and leaving it -/

/-- `raise ERR_X`, from any phase (60_exceptions.md R290): the engine's exception entry. Nothing is saved; the code is
latched, `STATUS` is ERROR with the `OBF` bit as it stands, no result is left and the contents of `RB`, `RAW`, `OUT` are
unspecified. -/
def takeError (e : ErrCode) (s : State) : State :=
  { s.forget with
    err := e.code
    status := statusError ||| s.obfPart
    outLen := 0
    outFmt := 0
    phase := .error }

/-- What CLEAR does to the registers and the phase (40_host_interface.md R122). -/
def clearRegs (s : State) : State :=
  { s with status := 0, err := 0, outLen := 0, outFmt := 0, phase := .idle }

/-- CLEAR: the return from a decode error, and how a result is dropped (40_host_interface.md R122, 60_exceptions.md
R297). In IDLE there is no result to lose and nothing changes (R122). -/
def clearResult (s : State) : State :=
  if s.phase = .idle then clearRegs s else clearRegs s.forget

/-- START: the other way out of a decode error (60_exceptions.md R297), and the beginning of DECODE
(40_host_interface.md R121). -/
def beginDecode (s : State) : State :=
  { s.forget with
    status := statusBusy
    err := 0
    outLen := 0
    outFmt := 0
    phase := .fetch }

/-- The end of a successful decode (40_host_interface.md R128), for the output size and format code of its format. -/
def finishDecode (fmtCode size : Nat) (s : State) : State :=
  { s.forgetScratch with
    outLen := BitVec.ofNat 32 size
    outFmt := if fmtCode = 513 then 1 else 0
    status := statusDone ||| s.obfPart
    phase := .done }

/-- The end of a decode of an empty asset (40_host_interface.md R125). -/
def finishEmpty (s : State) : State :=
  { s.forget with
    status := statusDone ||| statusEmpty
    outLen := 0
    outFmt := 0
    phase := .done }

/-- Reset, while `rest` is what the host does next (70_reset_and_hazards.md R320, log 16): the reset state, with fresh
unspecified contents. -/
def State.coldReset (s : State) (rest : List HostMove) : State :=
  { State.resetWith s.cfg with
    host := rest, rdata := s.rdata, resets := s.resets + 1, forgets := s.forgets + 1 }

/-! ## The host's register accesses -/

/-- The value of a register as the host reads it (10_state.md R20); `CTRL` reads 0 (R21). -/
def State.readReg? (s : State) : Nat → Option Word
  | 0 => some 0
  | 1 => some s.status
  | 2 => some s.err
  | 3 => some s.width
  | 4 => some s.height
  | 5 => some s.fmtPri
  | 6 => some s.fmtSec
  | 7 => some s.inLen
  | 8 => some s.outLen
  | 9 => some s.outFmt
  | _ => none

/-- A host write to one of the registers 3 to 7 (40_host_interface.md R120); bits 31:8 of `FMT_SEC` ignore writes
(10_state.md R20, R25). -/
def State.writeReg? (s : State) (r : Nat) (v : Word) : Option State :=
  match r with
  | 3 => some { s with width := v }
  | 4 => some { s with height := v }
  | 5 => some { s with fmtPri := v }
  | 6 => some { s with fmtSec := v &&& 0xFF }
  | 7 => some { s with inLen := v }
  | _ => none

/-! ## From an operation to a step -/

/-- The outcome of a meaning: a raised error is taken (60_exceptions.md R290). -/
def Res.toOutcome (r : Res Unit) : Host.Outcome State Fault Refusal :=
  match r with
  | .ok _ s => .next s
  | .err e s => .next (takeError e s)
  | .fault f => .fault f
  | .refuse x => .refused x

end Sys2Proof.Machine
end

