-- ==== Sys2Proof/Machine/Operands.lean ====
section
/-! DEFINITION. Where the operands of a decode come from: the descriptor (30_encoding.md R92), the length field and the
payload (40_host_interface.md R125, 41_framing.md R141), the key (R145), the stream `Z` (R147), its bits (42_deflate.md R161
to R163) and its Huffman-coded symbols (R170 to R172). -/

namespace Sys2Proof.Machine

/-! ## The descriptor -/

/-- `w = WIDTH` (43_pixel_formats.md). -/
def State.w (s : State) : Nat := s.width.toNat

/-- `h = HEIGHT` (43_pixel_formats.md). -/
def State.h (s : State) : Nat := s.height.toNat

/-- The dispatch key `FMT_PRI + FMT_SEC[7:0]`, without wrap-around (43_pixel_formats.md R210). -/
def State.effectiveFmt (s : State) : Nat := s.fmtPri.toNat + field 7 0 s.fmtSec.toNat

/-! ## The blob, the payload, the key -/

/-- `L`, the signed length field (40_host_interface.md R125). -/
def readL (s : State) : Res Int :=
  (memRead .inB 0 4 s).andThen fun v t => .ok (s32 v) t

/-- `payload[k] = IN[5 + k]` (41_framing.md). -/
def loadPayload (k : Nat) (s : State) : Res Byte := load .inB (5 + k) s

/-- The header value `h` (41_framing.md R141). -/
def readHeader (s : State) : Res Nat := memRead .inB 5 2 s

/-- `key_byte(i)`, which raises `ERR_KEY` at or beyond `KEY_LEN` (41_framing.md R145). -/
def keyByte (i : Nat) (s : State) : Res Byte :=
  if s.cfg.keyLen ≤ i then .err .key s else load .key i s

/-! ## The stream `Z` and its bits -/

/-- The buffer that holds `Z` and the index of `Z(k)` in it (41_framing.md R147). -/
def State.zPlace (s : State) (k : Nat) : Buf × Nat :=
  if s.isObf then (.rb, k) else (.inB, 5 + k)

/-- `Z(k)`, for `k < Z_LEN` (41_framing.md R147). -/
def loadZ (k : Nat) (s : State) : Res Byte := load (s.zPlace k).1 (s.zPlace k).2 s

/-- `MemRead(Z, a, n)`, little-endian (42_deflate.md R167). -/
def readZ (a : Nat) : Nat → State → Res Nat
  | 0, s => .ok 0 s
  | n + 1, s =>
    (loadZ a s).andThen fun v s1 =>
    (readZ (a + 1) n s1).andThen fun rest s2 =>
    .ok (v.toNat + 256 * rest) s2

/-- `getbit()`: bit `BITPOS` of `Z`, from the least significant bit of each byte upward; `ERR_TRUNC` at the end of `Z`
(42_deflate.md R161, R162). -/
def getbit (s : State) : Res Nat :=
  if 8 * s.zLen ≤ s.bitPos then .err .trunc s
  else
    (loadZ (s.bitPos / 8) s).andThen fun b t =>
    .ok ((b.toNat >>> (s.bitPos % 8)) % 2) { t with bitPos := s.bitPos + 1 }

/-- `getbits(n)`: the first bit read is the least significant (42_deflate.md R163). -/
def getbits : Nat → State → Res Nat
  | 0, s => .ok 0 s
  | n + 1, s =>
    (getbit s).andThen fun b s1 =>
    (getbits n s1).andThen fun rest s2 =>
    .ok (b + 2 * rest) s2

/-! ## Huffman codes -/

/-- `count[l]` of 42_deflate.md R170: how many symbols have length `l`; `count[0]` is 0. -/
def lenCount (lens : List Nat) (l : Nat) : Nat := if l = 0 then 0 else lens.count l

/-- The value of `code` when 42_deflate.md R170's first loop has reached length `l`: the codeword of the first symbol of
that length. -/
def firstCode (lens : List Nat) : Nat → Nat
  | 0 => 0
  | l + 1 => (firstCode lens l + lenCount lens l) <<< 1

/-- `codeword[s]` of 42_deflate.md R170: the first codeword of the symbol's length, and one more for each smaller symbol
of that length. -/
def codeword (lens : List Nat) (sym : Nat) : Nat :=
  firstCode lens (lens.getD sym 0) + (lens.take sym).count (lens.getD sym 0)

/-- The symbols, in increasing order from `base`, whose length is `l`: the one with `k` others before it. -/
def nthOfLen (l : Nat) : (k base : Nat) → List Nat → Option Nat
  | _, _, [] => none
  | k, base, x :: xs =>
    if x = l then
      match k with
      | 0 => some base
      | k + 1 => nthOfLen l k (base + 1) xs
    else nthOfLen l k (base + 1) xs

/-- The symbol with `len[s] = l` and `codeword[s] = v`, if there is one (42_deflate.md R171). -/
def symbolOf (lens : List Nat) (l v : Nat) : Option Nat :=
  if v < firstCode lens l then none else nthOfLen l (v - firstCode lens l) 0 lens

/-- `maxlen` of 42_deflate.md R171. -/
def maxLen (lens : List Nat) : Nat := lens.foldl max 0

/-- The loop of 42_deflate.md R171 from length `l` on, `left` lengths to go, with the bits read so far in `v`. -/
def symbolLoop (lens : List Nat) : (left l v : Nat) → State → Res Nat
  | 0, _, _, s => .err .stream s
  | left + 1, l, v, s =>
    (getbit s).andThen fun b t =>
    match symbolOf lens l (v <<< 1 ||| b) with
    | some sym => .ok sym t
    | none => symbolLoop lens left (l + 1) (v <<< 1 ||| b) t

/-- `decode(code)`: one Huffman-coded symbol, first bit read the most significant (42_deflate.md R171). -/
def readSymbol (lens : List Nat) (s : State) : Res Nat :=
  if maxLen lens = 0 then .err .stream s else symbolLoop lens (maxLen lens) 1 0 s

/-- `K` of 42_deflate.md R172. -/
def kraft (lens : List Nat) : Nat :=
  (lens.map fun l => if l = 0 then 0 else 2 ^ (15 - l)).sum

/-- `check(len, kind)` of 42_deflate.md R172, true where it returns; `isCl` says that the kind is CL. -/
def codeLengthsOk (isCl : Bool) (lens : List Nat) : Bool :=
  if 2 ^ 15 < kraft lens then false
  else if kraft lens = 2 ^ 15 then true
  else if lens.all (· == 0) then true
  else !isCl && lens.filter (· != 0) == [1]

end Sys2Proof.Machine
end

