-- ==== Sys2Proof/Machine/Command.lean ====
section
/-! DEFINITION. The commands of format CMD (40_host_interface.md R121 to R123) and the host's other moves (R120). -/

namespace Sys2Proof.Machine

/-- A command is a host move, and the host has none while `STATUS.BUSY = 1` (10_state.md R21, log 14). -/
def command (effect : State → State) (s : State) : Host.Outcome State Fault Refusal :=
  if s.busy then .refused .commandWhileBusy else .next (effect s)

/-- NOP: a `CTRL` write with neither bit set does nothing (40_host_interface.md R123). -/
def execNop (s : State) : Host.Outcome State Fault Refusal := command (fun s => s) s

/-- START (40_host_interface.md R121). -/
def execStart (s : State) : Host.Outcome State Fault Refusal := command beginDecode s

/-- CLEAR (40_host_interface.md R122). -/
def execClear (s : State) : Host.Outcome State Fault Refusal := command clearResult s

/-- CLEAR_START: CLEAR, then START, whose result is that of START alone (40_host_interface.md R123). -/
def execClearStart (s : State) : Host.Outcome State Fault Refusal :=
  command (fun s => beginDecode (clearRegs s)) s

/-- A move of the host at an engine that is not busy (40_host_interface.md R120), the command of a `CTRL` write aside: that
one is the instruction to run. Host accesses are byte by byte (92_eei_decisions.md D36). -/
def hostMove (m : HostMove) (s : State) : Res (Option Instr) :=
  match m with
  | .writeReg r v =>
    if r = 0 then
      match decode .cmd v.toNat with
      | .ok i => .ok (some i) s
      | .error e => .fault (.undecodable e)
    else
      match s.writeReg? r v with
      | some t => .ok none t
      | none => if r ≤ 9 then .refuse (.readOnlyRegister r) else .fault (.registerOutside r)
  | .writeIn a v => (store .inB a v s).andThen fun _ t => .ok none t
  | .writeKey a v => (store .key a v s).andThen fun _ t => .ok none t
  | .readReg r =>
    match s.readReg? r with
    | some v => .ok none { s with rdata := v }
    | none => .fault (.registerOutside r)
  | .readOut a => (load .out a s).andThen fun v t => .ok none { t with rdata := v.setWidth 32 }
  | .pollStatus => .ok none { s with rdata := s.status }
  | .reset => .ok none (s.coldReset s.host)

end Sys2Proof.Machine
end

