-- ==== Sys2Proof/Machine/Framing.lean ====
section
/-! DEFINITION. The rows of format HDR16: classification (41_framing.md R141, R142) and the XOR stripper (R143 to R146).
A header row acts twice in a decode: in CLASSIFY it is the header test, in STRIP one turn of the record loop (log 17). -/

namespace Sys2Proof.Machine

/-- The header test and its result (41_framing.md R141 to R143): membership of `h` in the parameter `ZLIB_HDR_SET`, of
which the PLAIN rows of the table are the default members (log 6). -/
def classify (h : Half) (s : State) : Res Unit :=
  if s.cfg.hdrSet.contains h then
    .ok () { s with status := s.status &&& ~~~statusObf, phase := .inflate, sub := .entry }
  else
    .ok () { s with status := s.status ||| statusObf, phase := .strip, inPos := 0, rbLen := 0 }

/-- One byte of a record: `RB[RB_LEN] <- payload[IN_POS + i] xor key_byte(i)` (41_framing.md R144, R145). -/
def stripByte (i : Nat) (s : State) : Res Unit :=
  (keyByte i s).andThen fun k s1 =>
  (loadPayload (s1.inPos + i) s1).andThen fun c s2 =>
  (store .rb s2.rbLen (c ^^^ k) s2).andThen fun _ s3 =>
  .ok () { s3 with rbLen := s3.rbLen + 1 }

/-- One turn of the `while` of 41_framing.md R144: a record, or the end of the loop. -/
def stripTurn (s : State) : Res Unit :=
  if s.p ≤ s.inPos then .ok () { s with phase := .inflate, sub := .entry }
  else if s.p < s.inPos + 4 then .err .framing s
  else
    (memRead .inB (5 + s.inPos) 4 s).andThen fun size s1 =>
    let s2 := { s1 with inPos := s1.inPos + 4 }
    if s2.p - s2.inPos < size then .err .framing s2
    else
      (forUp size 0 stripByte s2).andThen fun _ s3 =>
      .ok () { s3 with inPos := s3.inPos + size }

/-- What a header value does in the phase the engine is in. -/
def headerRow (h : Half) (s : State) : Host.Outcome State Fault Refusal :=
  match s.phase with
  | .strip => (stripTurn s).toOutcome
  | _ => (classify h s).toOutcome

/-- PLAIN_0178 (30_encoding.md R95, 41_framing.md R142). -/
def execPlain0178 (s : State) : Host.Outcome State Fault Refusal := headerRow 0x0178 s

/-- PLAIN_5E78 (30_encoding.md R95, 41_framing.md R142). -/
def execPlain5E78 (s : State) : Host.Outcome State Fault Refusal := headerRow 0x5E78 s

/-- PLAIN_9C78 (30_encoding.md R95, 41_framing.md R142). -/
def execPlain9C78 (s : State) : Host.Outcome State Fault Refusal := headerRow 0x9C78 s

/-- PLAIN_DA78 (30_encoding.md R95, 41_framing.md R142). -/
def execPlainDA78 (s : State) : Host.Outcome State Fault Refusal := headerRow 0xDA78 s

/-- OBF: any other header value (41_framing.md R142, R144). -/
def execObf (h : Half) (s : State) : Host.Outcome State Fault Refusal := headerRow h s

end Sys2Proof.Machine
end

