-- ==== Sys2Proof/Machine/Inflate.lean ====
section
/-! DEFINITION. The raw DEFLATE decompressor (42_deflate.md): producing bytes and the stop rule (R164), blocks (R166 to R168,
R173, R174), code lengths (R175, R176), symbols, matches (R178 to R181), the end of the stream (R182). -/

namespace Sys2Proof.Machine

/-! ## The phase and its blocks -/

/-- The start of INFLATE: `Z_LEN` (41_framing.md R147), the cursors, and the case `N = 0` (42_deflate.md R160, R184). -/
def inflateEntry (s : State) : State :=
  let t := { s with zLen := if s.isObf then s.rbLen else s.p, bitPos := 16, rawPos := 0 }
  if s.n = 0 then { t with phase := .repack } else { t with sub := .header }

/-- The block header: `BFINAL`, then `BTYPE` (42_deflate.md R166). -/
def readBlockHeader (s : State) : Res Nat :=
  (getbit s).andThen fun f s1 =>
  (getbits 2 { s1 with bfinal := f }).andThen fun ty s2 =>
  .ok ty { s2 with btype := ty }

/-- The end of a block: the next block header, or `ERR_TRUNC` after the final block, since the stop rule has not fired
(42_deflate.md R160, R182). -/
def endBlock (s : State) : Res Unit :=
  if s.bfinal = 1 then .err .trunc s else .ok () { s with sub := .header }

/-! ## Producing bytes -/

/-- `emit(b)`, the only way a byte enters `RAW`; true where the stop rule fires and INFLATE is left (42_deflate.md R164). -/
def emit (b : Byte) (s : State) : Res Bool :=
  (store .raw s.rawPos b s).andThen fun _ s1 =>
  let s2 := { s1 with rawPos := s1.rawPos + 1 }
  if s2.rawPos = s2.n then .ok true { s2 with phase := .repack } else .ok false s2

/-- The bytes of a stored block, `left` of them still to come (42_deflate.md R167). -/
def storedCopy : (left : Nat) → State → Res Bool
  | 0, s => .ok false s
  | left + 1, s =>
    if s.zLen ≤ s.bitPos / 8 then .err .trunc s
    else
      (loadZ (s.bitPos / 8) s).andThen fun b s1 =>
      (emit b s1).andThen fun stop s2 =>
      if stop then .ok true s2 else storedCopy left { s2 with bitPos := s2.bitPos + 8 }

/-- The bytes of a match, `left` of them still to come: each is read after the one before it was written
(42_deflate.md R181, 20_memory.md R75). -/
def matchCopy (dist : Nat) : (left : Nat) → State → Res Bool
  | 0, s => .ok false s
  | left + 1, s =>
    (load .raw (s.rawPos - dist) s).andThen fun b s1 =>
    (emit b s1).andThen fun stop s2 =>
    if stop then .ok true s2 else matchCopy dist left s2

/-! ## Stored, fixed and dynamic blocks -/

/-- A stored block (42_deflate.md R167). -/
def storedBlock (s : State) : Res Unit :=
  let s0 := { s with bitPos := 8 * ((s.bitPos + 7) / 8) }
  let a := s0.bitPos / 8
  if s0.zLen < a + 4 then .err .trunc s0
  else
    (readZ a 2 s0).andThen fun len s1 =>
    (readZ (a + 2) 2 s1).andThen fun nlen s2 =>
    if nlen ≠ len ^^^ 0xFFFF then .err .stream s2
    else
      (storedCopy len { s2 with bitPos := s2.bitPos + 32 }).andThen fun stop s3 =>
      if stop then .ok () s3 else endBlock s3

/-- The literal/length code lengths of a FIXED block (42_deflate.md R168). -/
def fixedLitlenLens : List Nat :=
  List.replicate 144 8 ++ (List.replicate 112 9 ++ (List.replicate 24 7 ++ List.replicate 8 8))

/-- The distance code lengths of a FIXED block (42_deflate.md R168). -/
def fixedDistLens : List Nat := List.replicate 32 5

/-- `CL_ORDER` (30_encoding.md R105). -/
def clOrder : List Nat := [16, 17, 18, 0, 8, 7, 9, 6, 10, 5, 11, 4, 12, 3, 13, 2, 14, 1, 15]

/-- The code-length code lengths, for the symbols given in transmission order (42_deflate.md R174). -/
def readClLens : List Nat → State → Res Unit
  | [], s => .ok () s
  | c :: cs, s =>
    (getbits 3 s).andThen fun v t => readClLens cs { t with clLen := t.clLen.set c v }

/-- A dynamic block up to its code-length code (42_deflate.md R173, R174). -/
def dynamicBlock (s : State) : Res Unit :=
  (getbits 5 s).andThen fun hlit s1 =>
  (getbits 5 s1).andThen fun hdist s2 =>
  (getbits 4 s2).andThen fun hclen s3 =>
  let s4 := { s3 with nlen := hlit + 257, ndist := hdist + 1 }
  if 286 < s4.nlen ∨ 30 < s4.ndist then .err .stream s4
  else
    (readClLens (clOrder.take (hclen + 4)) { s4 with clLen := List.replicate 19 0 }).andThen fun _ s5 =>
    if codeLengthsOk true s5.clLen then .ok () { s5 with lens := [], sub := .codeLens } else .err .stream s5

/-! ## Code lengths -/

/-- The tables of a dynamic block, from its complete sequence of code lengths (42_deflate.md R176). -/
def buildTables (s : State) : Res Unit :=
  if s.lens.getD 256 0 = 0 then .err .stream s
  else
    let t := { s with
      llLen := s.lens.take s.nlen ++ List.replicate (288 - s.nlen) 0
      dLen := (s.lens.drop s.nlen).take s.ndist ++ List.replicate (32 - s.ndist) 0 }
    if codeLengthsOk false t.llLen then
      if codeLengthsOk false t.dLen then .ok () { t with sub := .litlen } else .err .stream t
    else .err .stream t

/-- `lens[i..i+r) <- v; i <- i + r`, the tables built once the sequence is complete (42_deflate.md R175, R176). -/
def appendLens (v r : Nat) (s : State) : Res Unit :=
  let t := { s with lens := s.lens ++ List.replicate r v }
  if t.lens.length < t.nlen + t.ndist then .ok () t else buildTables t

/-- A repeat, refused where it runs past the end of the sequence (42_deflate.md R175). -/
def repeatLens (v r : Nat) (s : State) : Res Unit :=
  if s.nlen + s.ndist < s.lens.length + r then .err .stream s else appendLens v r s

/-! ## Matches -/

/-- A length symbol: `len <- base + getbits(extra)` (42_deflate.md R179); its distance symbol comes next (R178). -/
def matchLength (base extra : Nat) (s : State) : Res Unit :=
  (getbits extra s).andThen fun e t => .ok () { t with matchLen := base + e, sub := .dist }

/-- A distance symbol: `dist <- base + getbits(extra)`, then the copy (42_deflate.md R180, R181). -/
def matchDistance (base extra : Nat) (s : State) : Res Unit :=
  (getbits extra s).andThen fun e t =>
  if t.rawPos < base + e then .err .stream t
  else
    (matchCopy (base + e) t.matchLen t).andThen fun stop u =>
    if stop then .ok () u else .ok () { u with sub := .litlen }

/-! ## Format BLKHDR -/

/-- STORED (42_deflate.md R167). -/
def execStored (s : State) : Host.Outcome State Fault Refusal := (storedBlock s).toOutcome

/-- FIXED (42_deflate.md R168). -/
def execFixed (s : State) : Host.Outcome State Fault Refusal :=
  .next { s with llLen := fixedLitlenLens, dLen := fixedDistLens, sub := .litlen }

/-- DYNAMIC (42_deflate.md R173, R174). -/
def execDynamic (s : State) : Host.Outcome State Fault Refusal := (dynamicBlock s).toOutcome

/-- BTYPE_RESERVED: `ERR_STREAM` (42_deflate.md R166). -/
def execBtypeReserved (s : State) : Host.Outcome State Fault Refusal := .next (takeError .stream s)

/-! ## Format CLSYM -/

/-- CL0_15: the next code length is `v` (42_deflate.md R175). -/
def execCl0to15 (v : Nat) (s : State) : Host.Outcome State Fault Refusal := (appendLens v 1 s).toOutcome

/-- CL16: the previous code length, 3 to 6 times; `ERR_STREAM` where there is none (42_deflate.md R175). -/
def execCl16 (s : State) : Host.Outcome State Fault Refusal :=
  match s.lens.getLast? with
  | none => .next (takeError .stream s)
  | some v => ((getbits 2 s).andThen fun e t => repeatLens v (3 + e) t).toOutcome

/-- CL17: 3 to 10 zero lengths (42_deflate.md R175). -/
def execCl17 (s : State) : Host.Outcome State Fault Refusal :=
  ((getbits 3 s).andThen fun e t => repeatLens 0 (3 + e) t).toOutcome

/-- CL18: 11 to 138 zero lengths (42_deflate.md R175). -/
def execCl18 (s : State) : Host.Outcome State Fault Refusal :=
  ((getbits 7 s).andThen fun e t => repeatLens 0 (11 + e) t).toOutcome

/-! ## Format LITLEN -/

/-- LIT: emit the byte (42_deflate.md R178). -/
def execLit (b : Byte) (s : State) : Host.Outcome State Fault Refusal :=
  ((emit b s).andThen fun _ t => .ok () t).toOutcome

/-- EOB: end of block (42_deflate.md R178, R182). -/
def execEob (s : State) : Host.Outcome State Fault Refusal := (endBlock s).toOutcome

/-- LEN257 (30_encoding.md R102, 42_deflate.md R179). -/
def execLen257 (s : State) : Host.Outcome State Fault Refusal := (matchLength 3 0 s).toOutcome

/-- LEN258 (30_encoding.md R102, 42_deflate.md R179). -/
def execLen258 (s : State) : Host.Outcome State Fault Refusal := (matchLength 4 0 s).toOutcome

/-- LEN259 (30_encoding.md R102, 42_deflate.md R179). -/
def execLen259 (s : State) : Host.Outcome State Fault Refusal := (matchLength 5 0 s).toOutcome

/-- LEN260 (30_encoding.md R102, 42_deflate.md R179). -/
def execLen260 (s : State) : Host.Outcome State Fault Refusal := (matchLength 6 0 s).toOutcome

/-- LEN261 (30_encoding.md R102, 42_deflate.md R179). -/
def execLen261 (s : State) : Host.Outcome State Fault Refusal := (matchLength 7 0 s).toOutcome

/-- LEN262 (30_encoding.md R102, 42_deflate.md R179). -/
def execLen262 (s : State) : Host.Outcome State Fault Refusal := (matchLength 8 0 s).toOutcome

/-- LEN263 (30_encoding.md R102, 42_deflate.md R179). -/
def execLen263 (s : State) : Host.Outcome State Fault Refusal := (matchLength 9 0 s).toOutcome

/-- LEN264 (30_encoding.md R102, 42_deflate.md R179). -/
def execLen264 (s : State) : Host.Outcome State Fault Refusal := (matchLength 10 0 s).toOutcome

/-- LEN265 (30_encoding.md R102, 42_deflate.md R179). -/
def execLen265 (s : State) : Host.Outcome State Fault Refusal := (matchLength 11 1 s).toOutcome

/-- LEN266 (30_encoding.md R102, 42_deflate.md R179). -/
def execLen266 (s : State) : Host.Outcome State Fault Refusal := (matchLength 13 1 s).toOutcome

/-- LEN267 (30_encoding.md R102, 42_deflate.md R179). -/
def execLen267 (s : State) : Host.Outcome State Fault Refusal := (matchLength 15 1 s).toOutcome

/-- LEN268 (30_encoding.md R102, 42_deflate.md R179). -/
def execLen268 (s : State) : Host.Outcome State Fault Refusal := (matchLength 17 1 s).toOutcome

/-- LEN269 (30_encoding.md R102, 42_deflate.md R179). -/
def execLen269 (s : State) : Host.Outcome State Fault Refusal := (matchLength 19 2 s).toOutcome

/-- LEN270 (30_encoding.md R102, 42_deflate.md R179). -/
def execLen270 (s : State) : Host.Outcome State Fault Refusal := (matchLength 23 2 s).toOutcome

/-- LEN271 (30_encoding.md R102, 42_deflate.md R179). -/
def execLen271 (s : State) : Host.Outcome State Fault Refusal := (matchLength 27 2 s).toOutcome

/-- LEN272 (30_encoding.md R102, 42_deflate.md R179). -/
def execLen272 (s : State) : Host.Outcome State Fault Refusal := (matchLength 31 2 s).toOutcome

/-- LEN273 (30_encoding.md R102, 42_deflate.md R179). -/
def execLen273 (s : State) : Host.Outcome State Fault Refusal := (matchLength 35 3 s).toOutcome

/-- LEN274 (30_encoding.md R102, 42_deflate.md R179). -/
def execLen274 (s : State) : Host.Outcome State Fault Refusal := (matchLength 43 3 s).toOutcome

/-- LEN275 (30_encoding.md R102, 42_deflate.md R179). -/
def execLen275 (s : State) : Host.Outcome State Fault Refusal := (matchLength 51 3 s).toOutcome

/-- LEN276 (30_encoding.md R102, 42_deflate.md R179). -/
def execLen276 (s : State) : Host.Outcome State Fault Refusal := (matchLength 59 3 s).toOutcome

/-- LEN277 (30_encoding.md R102, 42_deflate.md R179). -/
def execLen277 (s : State) : Host.Outcome State Fault Refusal := (matchLength 67 4 s).toOutcome

/-- LEN278 (30_encoding.md R102, 42_deflate.md R179). -/
def execLen278 (s : State) : Host.Outcome State Fault Refusal := (matchLength 83 4 s).toOutcome

/-- LEN279 (30_encoding.md R102, 42_deflate.md R179). -/
def execLen279 (s : State) : Host.Outcome State Fault Refusal := (matchLength 99 4 s).toOutcome

/-- LEN280 (30_encoding.md R102, 42_deflate.md R179). -/
def execLen280 (s : State) : Host.Outcome State Fault Refusal := (matchLength 115 4 s).toOutcome

/-- LEN281 (30_encoding.md R102, 42_deflate.md R179). -/
def execLen281 (s : State) : Host.Outcome State Fault Refusal := (matchLength 131 5 s).toOutcome

/-- LEN282 (30_encoding.md R102, 42_deflate.md R179). -/
def execLen282 (s : State) : Host.Outcome State Fault Refusal := (matchLength 163 5 s).toOutcome

/-- LEN283 (30_encoding.md R102, 42_deflate.md R179). -/
def execLen283 (s : State) : Host.Outcome State Fault Refusal := (matchLength 195 5 s).toOutcome

/-- LEN284 (30_encoding.md R102, 42_deflate.md R179). -/
def execLen284 (s : State) : Host.Outcome State Fault Refusal := (matchLength 227 5 s).toOutcome

/-- LEN285 (30_encoding.md R102, 42_deflate.md R179). -/
def execLen285 (s : State) : Host.Outcome State Fault Refusal := (matchLength 258 0 s).toOutcome

/-- LITLEN_INVALID: symbols 286 and 287 are never valid in data, `ERR_STREAM` (42_deflate.md R179). -/
def execLitlenInvalid (_v : Nat) (s : State) : Host.Outcome State Fault Refusal := .next (takeError .stream s)

/-! ## Format DIST -/

/-- DIST0 (30_encoding.md R103, 42_deflate.md R180, R181). -/
def execDist0 (s : State) : Host.Outcome State Fault Refusal := (matchDistance 1 0 s).toOutcome

/-- DIST1 (30_encoding.md R103, 42_deflate.md R180, R181). -/
def execDist1 (s : State) : Host.Outcome State Fault Refusal := (matchDistance 2 0 s).toOutcome

/-- DIST2 (30_encoding.md R103, 42_deflate.md R180, R181). -/
def execDist2 (s : State) : Host.Outcome State Fault Refusal := (matchDistance 3 0 s).toOutcome

/-- DIST3 (30_encoding.md R103, 42_deflate.md R180, R181). -/
def execDist3 (s : State) : Host.Outcome State Fault Refusal := (matchDistance 4 0 s).toOutcome

/-- DIST4 (30_encoding.md R103, 42_deflate.md R180, R181). -/
def execDist4 (s : State) : Host.Outcome State Fault Refusal := (matchDistance 5 1 s).toOutcome

/-- DIST5 (30_encoding.md R103, 42_deflate.md R180, R181). -/
def execDist5 (s : State) : Host.Outcome State Fault Refusal := (matchDistance 7 1 s).toOutcome

/-- DIST6 (30_encoding.md R103, 42_deflate.md R180, R181). -/
def execDist6 (s : State) : Host.Outcome State Fault Refusal := (matchDistance 9 2 s).toOutcome

/-- DIST7 (30_encoding.md R103, 42_deflate.md R180, R181). -/
def execDist7 (s : State) : Host.Outcome State Fault Refusal := (matchDistance 13 2 s).toOutcome

/-- DIST8 (30_encoding.md R103, 42_deflate.md R180, R181). -/
def execDist8 (s : State) : Host.Outcome State Fault Refusal := (matchDistance 17 3 s).toOutcome

/-- DIST9 (30_encoding.md R103, 42_deflate.md R180, R181). -/
def execDist9 (s : State) : Host.Outcome State Fault Refusal := (matchDistance 25 3 s).toOutcome

/-- DIST10 (30_encoding.md R103, 42_deflate.md R180, R181). -/
def execDist10 (s : State) : Host.Outcome State Fault Refusal := (matchDistance 33 4 s).toOutcome

/-- DIST11 (30_encoding.md R103, 42_deflate.md R180, R181). -/
def execDist11 (s : State) : Host.Outcome State Fault Refusal := (matchDistance 49 4 s).toOutcome

/-- DIST12 (30_encoding.md R103, 42_deflate.md R180, R181). -/
def execDist12 (s : State) : Host.Outcome State Fault Refusal := (matchDistance 65 5 s).toOutcome

/-- DIST13 (30_encoding.md R103, 42_deflate.md R180, R181). -/
def execDist13 (s : State) : Host.Outcome State Fault Refusal := (matchDistance 97 5 s).toOutcome

/-- DIST14 (30_encoding.md R103, 42_deflate.md R180, R181). -/
def execDist14 (s : State) : Host.Outcome State Fault Refusal := (matchDistance 129 6 s).toOutcome

/-- DIST15 (30_encoding.md R103, 42_deflate.md R180, R181). -/
def execDist15 (s : State) : Host.Outcome State Fault Refusal := (matchDistance 193 6 s).toOutcome

/-- DIST16 (30_encoding.md R103, 42_deflate.md R180, R181). -/
def execDist16 (s : State) : Host.Outcome State Fault Refusal := (matchDistance 257 7 s).toOutcome

/-- DIST17 (30_encoding.md R103, 42_deflate.md R180, R181). -/
def execDist17 (s : State) : Host.Outcome State Fault Refusal := (matchDistance 385 7 s).toOutcome

/-- DIST18 (30_encoding.md R103, 42_deflate.md R180, R181). -/
def execDist18 (s : State) : Host.Outcome State Fault Refusal := (matchDistance 513 8 s).toOutcome

/-- DIST19 (30_encoding.md R103, 42_deflate.md R180, R181). -/
def execDist19 (s : State) : Host.Outcome State Fault Refusal := (matchDistance 769 8 s).toOutcome

/-- DIST20 (30_encoding.md R103, 42_deflate.md R180, R181). -/
def execDist20 (s : State) : Host.Outcome State Fault Refusal := (matchDistance 1025 9 s).toOutcome

/-- DIST21 (30_encoding.md R103, 42_deflate.md R180, R181). -/
def execDist21 (s : State) : Host.Outcome State Fault Refusal := (matchDistance 1537 9 s).toOutcome

/-- DIST22 (30_encoding.md R103, 42_deflate.md R180, R181). -/
def execDist22 (s : State) : Host.Outcome State Fault Refusal := (matchDistance 2049 10 s).toOutcome

/-- DIST23 (30_encoding.md R103, 42_deflate.md R180, R181). -/
def execDist23 (s : State) : Host.Outcome State Fault Refusal := (matchDistance 3073 10 s).toOutcome

/-- DIST24 (30_encoding.md R103, 42_deflate.md R180, R181). -/
def execDist24 (s : State) : Host.Outcome State Fault Refusal := (matchDistance 4097 11 s).toOutcome

/-- DIST25 (30_encoding.md R103, 42_deflate.md R180, R181). -/
def execDist25 (s : State) : Host.Outcome State Fault Refusal := (matchDistance 6145 11 s).toOutcome

/-- DIST26 (30_encoding.md R103, 42_deflate.md R180, R181). -/
def execDist26 (s : State) : Host.Outcome State Fault Refusal := (matchDistance 8193 12 s).toOutcome

/-- DIST27 (30_encoding.md R103, 42_deflate.md R180, R181). -/
def execDist27 (s : State) : Host.Outcome State Fault Refusal := (matchDistance 12289 12 s).toOutcome

/-- DIST28 (30_encoding.md R103, 42_deflate.md R180, R181). -/
def execDist28 (s : State) : Host.Outcome State Fault Refusal := (matchDistance 16385 13 s).toOutcome

/-- DIST29 (30_encoding.md R103, 42_deflate.md R180, R181). -/
def execDist29 (s : State) : Host.Outcome State Fault Refusal := (matchDistance 24577 13 s).toOutcome

/-- DIST_INVALID: symbols 30 and 31 are never valid, `ERR_STREAM` (42_deflate.md R180). -/
def execDistInvalid (_v : Nat) (s : State) : Host.Outcome State Fault Refusal := .next (takeError .stream s)

end Sys2Proof.Machine
end

