-- ==== Sys2Proof/Machine/Dxt.lean ====
section
/-! DEFINITION. The DXT3/DXT5 block decompressor (44_dxt.md), its working tables in State (10_state.md R37), and the pixel
write `put` shared with the repacker (43_pixel_formats.md). -/

namespace Sys2Proof.Machine

/-- `put(x, y, B, G, R, A)` (43_pixel_formats.md, 20_memory.md R63). -/
def put (x y : Nat) (b g r a : Byte) (s : State) : Res Unit :=
  let i := (y * s.w + x) * 4
  (store .out i b s).andThen fun _ s1 =>
  (store .out (i + 1) g s1).andThen fun _ s2 =>
  (store .out (i + 2) r s2).andThen fun _ s3 =>
  store .out (i + 3) a s3

/-- `put`, clipped on the pixel's coordinates (43_pixel_formats.md R222, 44_dxt.md R251). -/
def putClipped (x y : Nat) (b g r a : Byte) (s : State) : Res Unit :=
  if x < s.w ∧ y < s.h then put x y b g r a s else .ok () s

/-! ## Colours -/

/-- `expand565(v)` (44_dxt.md R243, 30_encoding.md R111). -/
def expand565 (v : Nat) : Colour :=
  let r5 := field 15 11 v
  let g6 := field 10 5 v
  let b5 := field 4 0 v
  { r := BitVec.ofNat 8 (r5 <<< 3 ||| r5 >>> 2)
    g := BitVec.ofNat 8 (g6 <<< 2 ||| g6 >>> 4)
    b := BitVec.ofNat 8 (b5 <<< 3 ||| b5 >>> 2) }

/-- `(2 * u + v + 1) / 3`, the blend of colour table entries 2 and 3 on one channel (44_dxt.md R245). -/
def blend3 (u v : Byte) : Byte := BitVec.ofNat 8 ((2 * u.toNat + v.toNat + 1) / 3)

/-- The blend of two colours, channel by channel (44_dxt.md R245). -/
def Colour.blend (c d : Colour) : Colour := { r := blend3 c.r d.r, g := blend3 c.g d.g, b := blend3 c.b d.b }

/-- The colour table of the endpoints `c0` and `c1`, which are not compared (44_dxt.md R240, R244, R245). -/
def colourTable (c0 c1 : Nat) : List Colour :=
  let e0 := expand565 c0
  let e1 := expand565 c1
  [e0, e1, e0.blend e1, e1.blend e0]

/-- The endpoints of the block at `off` and its colour table (44_dxt.md R242, R244, R245). -/
def loadColours (off : Nat) (s : State) : Res Unit :=
  (memRead .raw (off + 8) 2 s).andThen fun c0 s1 =>
  (memRead .raw (off + 10) 2 s1).andThen fun c1 s2 =>
  .ok () { s2 with ct := colourTable c0 c1 }

/-- The colour indices of the block at `off` (44_dxt.md R246). -/
def loadColourIndices (off : Nat) : State → Res Unit :=
  forUp 4 0 fun j =>
    forUp 4 0 fun i s =>
      (load .raw (off + 12 + j) s).andThen fun b t =>
      .ok () { t with cidx := t.cidx.set (4 * j + i) ((b.toNat >>> (2 * i)) % 4) }

/-! ## Alpha -/

/-- DXT3 alpha: one nibble per pixel (44_dxt.md R247). -/
def loadAlphaDxt3 (off : Nat) : State → Res Unit :=
  forUp 8 0 fun m s =>
    (load .raw (off + m) s).andThen fun b t =>
    .ok () { t with alphaTab := (t.alphaTab.set (2 * m) (rep4 (lo4 b))).set (2 * m + 1) (rep4 (hi4 b)) }

/-- Entry `i` of the DXT5 alpha table (44_dxt.md R248, R249). -/
def alphaEntry (a0 a1 : Byte) (i : Nat) : Byte :=
  if i = 0 then a0
  else if i = 1 then a1
  else if a1.toNat < a0.toNat then BitVec.ofNat 8 (((8 - i) * a0.toNat + (i - 1) * a1.toNat + 3) / 7)
  else if i < 6 then BitVec.ofNat 8 (((6 - i) * a0.toNat + (i - 1) * a1.toNat + 2) / 5)
  else if i = 6 then 0
  else 255

/-- The DXT5 alpha table of the block at `off`, entries 0 to 7 of `AT` (44_dxt.md R248, R249; log 20). -/
def loadAlphaTable (off : Nat) (s : State) : Res Unit :=
  (load .raw off s).andThen fun a0 s1 =>
  (load .raw (off + 1) s1).andThen fun a1 s2 =>
  .ok () { s2 with alphaTab := (List.range 8).map (alphaEntry a0 a1) ++ s2.alphaTab.drop 8 }

/-- The DXT5 alpha indices of the block at `off` (44_dxt.md R250). -/
def loadAlphaIndices (off : Nat) : State → Res Unit :=
  forUp 2 0 fun g s =>
    (memRead .raw (off + 2 + 3 * g) 3 s).andThen fun bits t =>
    forUp 8 0 (fun j u => .ok () { u with aidx := u.aidx.set (8 * g + j) ((bits >>> (3 * j)) % 8) }) t

/-- The alpha routine of DXT5 (44_dxt.md R248 to R250). -/
def loadAlphaDxt5 (off : Nat) (s : State) : Res Unit :=
  (loadAlphaTable off s).andThen fun _ t => loadAlphaIndices off t

/-! ## Blocks -/

/-- The alpha of block pixel `k` (44_dxt.md R251). -/
def State.alphaOf (s : State) (dxt5 : Bool) (k : Nat) : Byte :=
  s.alphaTab.getD (if dxt5 then s.aidx.getD k 0 else k) 0

/-- The colour of block pixel `k` (44_dxt.md R251). -/
def State.colourOf (s : State) (k : Nat) : Colour := s.ct.getD (s.cidx.getD k 0) { r := 0, g := 0, b := 0 }

/-- The pixels of the block whose first pixel is `(x, y)` (44_dxt.md R251). -/
def writeBlock (dxt5 : Bool) (x y : Nat) : State → Res Unit :=
  forUp 4 0 fun j =>
    forUp 4 0 fun i s =>
      let c := s.colourOf (4 * j + i)
      putClipped (x + i) (y + j) c.b c.g c.r (s.alphaOf dxt5 (4 * j + i)) s

/-- One block (44_dxt.md R241). -/
def dxtBlock (dxt5 : Bool) (col row off : Nat) (s : State) : Res Unit :=
  (if dxt5 then loadAlphaDxt5 off s else loadAlphaDxt3 off s).andThen fun _ s1 =>
  (loadColours off s1).andThen fun _ s2 =>
  (loadColourIndices off s2).andThen fun _ s3 =>
  writeBlock dxt5 (4 * col) (4 * row) s3

/-- The loop over blocks, in raster order (44_dxt.md R241). -/
def dxtImage (dxt5 : Bool) (s : State) : Res Unit :=
  forUp (ceil4 s.h) 0
    (fun row => forUp (ceil4 s.w) 0 fun col => dxtBlock dxt5 col row (16 * (col + row * ceil4 s.w))) s

end Sys2Proof.Machine
end

