-- ==== Sys2Proof/Machine/Pixel.lean ====
section
/-! DEFINITION. The rows of format FMT (43_pixel_formats.md): dispatch (R210 to R212, R220; 40_host_interface.md R126) and the
repack routines (R213 to R219). A format row acts twice in a decode: in DISPATCH it fixes the sizes and checks them, in
REPACK it writes the pixels and finishes the decode (log 17). -/

namespace Sys2Proof.Machine

/-- The raw size `N` of a supported format (43_pixel_formats.md R211). -/
def rawSize (fmt w h : Nat) : Nat :=
  match fmt with
  | 1 => w * h * 2
  | 2 => w * h * 4
  | 3 => ceil4 w * 4 * ceil4 h * 4 / 8
  | 513 => w * h * 2
  | 517 => w * h / 128
  | 1026 => w * h
  | 2050 => w * h
  | _ => 0

/-- The dimension check of 43_pixel_formats.md R211, true where it does not raise. -/
def dimsFit (fmt w h : Nat) : Bool :=
  match fmt with
  | 517 => 128 * (w * h / 128) == w * h
  | 1026 => 16 * ceil4 w * ceil4 h == w * h
  | 2050 => 16 * ceil4 w * ceil4 h == w * h
  | _ => true

/-- The output size (43_pixel_formats.md R212). -/
def outSize (fmt w h : Nat) : Nat := if fmt = 513 then w * h * 2 else w * h * 4

/-- DISPATCH for a supported format: `N`, the dimensions, the capacities (43_pixel_formats.md R211, R212;
40_host_interface.md R126). -/
def dispatchAs (fmt : Nat) (s : State) : Res Unit :=
  let t := { s with n := rawSize fmt s.w s.h }
  if dimsFit fmt s.w s.h then
    if t.cfg.rawCap < t.n ∨ t.cfg.outCap < outSize fmt s.w s.h then .err .cap t
    else .ok () { t with phase := .classify }
  else .err .dim t

/-- What a format code does in the phase the engine is in, `repack` being its routine. -/
def formatRow (fmt : Nat) (repack : State → Res Unit) (s : State) : Host.Outcome State Fault Refusal :=
  match s.phase with
  | .dispatch => (dispatchAs fmt s).toOutcome
  | _ => ((repack s).andThen fun _ t => .ok () (finishDecode fmt (outSize fmt s.w s.h) t)).toOutcome

/-! ## The repack routines -/

/-- Format 1 (43_pixel_formats.md R213). -/
def repackBgra4444 (s : State) : Res Unit :=
  forUp s.n 0
    (fun i t =>
      (load .raw i t).andThen fun v t1 =>
      (store .out (2 * i) (rep4 (lo4 v)) t1).andThen fun _ t2 =>
      store .out (2 * i + 1) (rep4 (hi4 v)) t2) s

/-- `for i in 0..N-1: OUT[i] <- RAW[i]` (43_pixel_formats.md R214, R216). -/
def repackCopy (s : State) : Res Unit :=
  forUp s.n 0 (fun i t => (load .raw i t).andThen fun v t1 => store .out i v t1) s

/-- The 4x4 pixels of one tile, of one colour, clipped (43_pixel_formats.md R215, R222). -/
def fillTile (tx ty : Nat) (b g r a : Byte) : State → Res Unit :=
  forUp 4 0 fun j => forUp 4 0 fun i => putClipped (4 * tx + i) (4 * ty + j) b g r a

/-- Format 3 (43_pixel_formats.md R215). -/
def repackTile4444 (s : State) : Res Unit :=
  forUp (ceil4 s.h) 0
    (fun ty => forUp (ceil4 s.w) 0 fun tx t =>
      (load .raw (2 * (tx + ty * ceil4 s.w)) t).andThen fun v t1 =>
      (load .raw (2 * (tx + ty * ceil4 s.w) + 1) t1).andThen fun u t2 =>
      fillTile tx ty (rep4 (lo4 v)) (rep4 (hi4 v)) (rep4 (lo4 u)) (rep4 (hi4 u)) t2) s

/-- One pixel of format 517, at the flat index `p` (43_pixel_formats.md R217). -/
def putGray (p : Nat) (v : Byte) (s : State) : Res Unit :=
  (store .out (4 * p) v s).andThen fun _ s1 =>
  (store .out (4 * p + 1) v s1).andThen fun _ s2 =>
  (store .out (4 * p + 2) v s2).andThen fun _ s3 =>
  store .out (4 * p + 3) 255 s3

/-- Format 517 (43_pixel_formats.md R217). -/
def repackGray1x16 (s : State) : Res Unit :=
  forUp s.n 0
    (fun q => forUp 8 0 fun j t =>
      (load .raw q t).andThen fun v t1 =>
      forUp 16 0 (fun k => putGray ((8 * q + j) * 16 + k) (BitVec.ofNat 8 (255 * ((v.toNat >>> (7 - j)) % 2)))) t1) s

/-! ## Format FMT -/

/-- BGRA4444, code 1 (43_pixel_formats.md R213). -/
def execBgra4444 (s : State) : Host.Outcome State Fault Refusal := formatRow 1 repackBgra4444 s

/-- BGRA8888, code 2 (43_pixel_formats.md R214). -/
def execBgra8888 (s : State) : Host.Outcome State Fault Refusal := formatRow 2 repackCopy s

/-- TILE4444, code 3 (43_pixel_formats.md R215). -/
def execTile4444 (s : State) : Host.Outcome State Fault Refusal := formatRow 3 repackTile4444 s

/-- RGB565, code 513 (43_pixel_formats.md R216). -/
def execRgb565 (s : State) : Host.Outcome State Fault Refusal := formatRow 513 repackCopy s

/-- GRAY1X16, code 517 (43_pixel_formats.md R217). -/
def execGray1x16 (s : State) : Host.Outcome State Fault Refusal := formatRow 517 repackGray1x16 s

/-- DXT3, code 1026 (43_pixel_formats.md R218). -/
def execDxt3 (s : State) : Host.Outcome State Fault Refusal := formatRow 1026 (dxtImage false) s

/-- DXT5, code 2050 (43_pixel_formats.md R219). -/
def execDxt5 (s : State) : Host.Outcome State Fault Refusal := formatRow 2050 (dxtImage true) s

/-- UNSUPPORTED: any other effective format, `ERR_FORMAT` (43_pixel_formats.md R220). -/
def execUnsupported (_v : Nat) (s : State) : Host.Outcome State Fault Refusal := .next (takeError .format s)

end Sys2Proof.Machine
end

