-- ==== Sys2Proof/Machine/Fetch.lean ====
section
/-! DEFINITION. The sequencer: how the engine finds the next element to run, phase by phase (10_state.md R32, R34;
40_host_interface.md R127), and the work of a phase that no row of the opcode table names. -/

namespace Sys2Proof.Machine

/-- The instruction that the value `v` of format `f` selects is the one to run. -/
def select (f : Format) (v : Nat) (s : State) : Res (Option Instr) :=
  match decode f v with
  | .ok i => .ok (some i) s
  | .error e => .fault (.undecodable e)

/-- The phase FETCH (40_host_interface.md R124, R125). -/
def fetchPhase (s : State) : Res (Option Instr) :=
  if s.cfg.inCap < s.inLen.toNat then .err .cap s
  else if s.inLen.toNat < 5 then .err .source s
  else
    (readL s).andThen fun l t =>
    let u := { t with p := (l - 1).toNat }
    if l - 1 ≤ 0 then .ok none (finishEmpty u)
    else if u.inLen.toNat < 5 + u.p then .err .source u
    else .ok none { u with phase := .dispatch }

/-- The phase DISPATCH: the dispatch key selects the row (43_pixel_formats.md R210). -/
def fetchFormat (s : State) : Res (Option Instr) :=
  select .fmt s.effectiveFmt { s with fmt := s.effectiveFmt }

/-- The phase CLASSIFY: the payload must hold the two header bytes, whose value selects the row (41_framing.md R140,
R141). -/
def fetchHeader (s : State) : Res (Option Instr) :=
  if s.p < 2 then .err .framing s
  else (readHeader s).andThen fun h t => select .hdr16 h t

/-- The phase STRIP: the row classification selected, its two bytes read again (41_framing.md R143). -/
def fetchStrip (s : State) : Res (Option Instr) :=
  (readHeader s).andThen fun h t => select .hdr16 h t

/-- The phase INFLATE: a block header, or a symbol of the code in force (42_deflate.md R160, R166, R175, R178, R180). -/
def fetchInflate (s : State) : Res (Option Instr) :=
  match s.sub with
  | .entry => .ok none (inflateEntry s)
  | .header => (readBlockHeader s).andThen fun v t => select .blkhdr v t
  | .codeLens => (readSymbol s.clLen s).andThen fun v t => select .clsym v t
  | .litlen => (readSymbol s.llLen s).andThen fun v t => select .litlen v t
  | .dist => (readSymbol s.dLen s).andThen fun v t => select .dist v t

/-- The phase REPACK: the routine that `FMT` selects (40_host_interface.md R127). -/
def fetchRepack (s : State) : Res (Option Instr) := select .fmt s.fmt s

/-- The next action of a running decode (10_state.md R34); outside a decode the engine does nothing. -/
def nextAction (s : State) : Res (Option Instr) :=
  match s.phase with
  | .fetch => fetchPhase s
  | .dispatch => fetchFormat s
  | .classify => fetchHeader s
  | .strip => fetchStrip s
  | .inflate => fetchInflate s
  | .repack => fetchRepack s
  | .idle => .ok none s
  | .done => .ok none s
  | .error => .ok none s

/-- What happens next: a host move where the host has one and may make it, the engine's own work otherwise. Answers the
instruction to run, if the next action is one, with the cursor moved past the bits it was read from. A running decode
keeps the host waiting (00_scope.md R17, log 1) but for the `STATUS` read that is allowed (70_reset_and_hazards.md R324)
and for reset (R320). -/
def fetch (s : State) : Res (Option Instr) :=
  match s.host with
  | [] => nextAction s
  | m :: rest =>
    match m with
    | .pollStatus => hostMove m { s with host := rest }
    | .reset => hostMove m { s with host := rest }
    | m => if s.phase.running then nextAction s else hostMove m { s with host := rest }

end Sys2Proof.Machine
end

