-- ==== Sys2Proof/Machine/Place.lean ====
section
/-! DEFINITION. How a value of each format is placed where the machine fetches it next (log 4): a pending `CTRL` write, the
format registers in DISPATCH, the two header bytes in CLASSIFY, the bits at `BITPOS` in INFLATE. -/

namespace Sys2Proof.Machine

/-- Bytes written to `IN` from index `a` on, the capacity made large enough for them. -/
def placeIn (a : Nat) (bytes : List Byte) (s : State) : State :=
  { s with
    cfg := { s.cfg with inCap := max s.cfg.inCap (a + bytes.length) }
    inBuf := (bytes.zipIdx a).foldl (fun m x => m.put x.2 x.1) s.inBuf }

/-- INFLATE at the first data bit of a plain stream (`BITPOS = 16`) whose first byte is `b`, with zeros after it. -/
def placeStream (sub : InflateSub) (b : Byte) (s : State) : State :=
  let t := placeIn 7 [b, 0, 0, 0, 0, 0, 0, 0] s
  { t with
    status := t.status &&& ~~~statusObf
    phase := .inflate, sub := sub, zLen := max t.zLen 10, bitPos := 16 }

/-- A code of `size` symbols in which only `v` has a codeword, the single bit 0 (42_deflate.md R172). -/
def oneSymbolCode (size v : Nat) : List Nat := (List.replicate size 0).set v 1

/-- The value `v` of format `f` placed where the next step fetches it, no host move before it. -/
def placeValue (f : Format) (v : Nat) (s : State) : State :=
  let t := { s with host := [] }
  match f with
  | .cmd => { t with host := [.writeReg 0 (BitVec.ofNat 32 v)], phase := .idle, status := t.status &&& ~~~statusBusy }
  | .fmt =>
    { t with
      phase := .dispatch
      fmtPri := BitVec.ofNat 32 (min v (2 ^ 32 - 1))
      fmtSec := BitVec.ofNat 32 (v - min v (2 ^ 32 - 1)) &&& 0xFF }
  | .hdr16 =>
    { placeIn 5 [BitVec.ofNat 8 v, BitVec.ofNat 8 (v / 256)] t with phase := .classify, p := max t.p 2 }
  | .blkhdr => placeStream .header (BitVec.ofNat 8 (2 * v)) t
  | .litlen => { placeStream .litlen 0 t with llLen := oneSymbolCode 288 v }
  | .dist => { placeStream .dist 0 t with dLen := oneSymbolCode 32 v }
  | .clsym => { placeStream .codeLens 0 t with clLen := oneSymbolCode 19 v }

end Sys2Proof.Machine
end

