-- ==== Sys2Proof/Machine/Step.lean ====
section
/-! DEFINITION. One step of the machine, and how an instruction is placed where the next step fetches it. -/

namespace Sys2Proof.Machine

/-- One step: fetch, then run what was fetched; an error raised on the way is taken (60_exceptions.md R290). -/
def step (s : State) : Host.Outcome State Fault Refusal :=
  match fetch s with
  | .ok (some i) t => exec i t
  | .ok none t => .next t
  | .err e t => .next (takeError e t)
  | .fault f => .fault f
  | .refuse r => .refused r

/-- The state with the instruction of the table's word `w` placed where the next step fetches it (log 4). -/
def State.withFetchWord (s : State) (nbits w : Nat) : State :=
  match tableFormat nbits w with
  | none => s
  | some (f, v) => placeValue f v s

end Sys2Proof.Machine
end

