-- ==== Sys2Proof/Safety.lean ====
section
/-! DEFINITION. The terms claims are stated in: values read without running the engine, the invariant of well-formed
states, runs and their end. -/

namespace Sys2Proof.Machine

/-! ## Values in buffers and in the stream -/

/-- The little-endian value of `n` bytes from index `a`: what `MemRead(BUF, a, n)` denotes (00_scope.md R10). -/
def State.le (s : State) (b : Buf) (a : Nat) : Nat → Nat
  | 0 => 0
  | n + 1 => (s.byteAt b a).toNat + 256 * s.le b (a + 1) n

/-- The length field `L` in `IN` (40_host_interface.md R125). -/
def State.lField (s : State) : Int := s32 (s.le .inB 0 4)

/-- The byte `Z(k)` (41_framing.md R147). -/
def State.zByte (s : State) (k : Nat) : Byte := s.byteAt (s.zPlace k).1 (s.zPlace k).2

/-- Bit `k` of `Z` (42_deflate.md R161). -/
def State.zBit (s : State) (k : Nat) : Nat := ((s.zByte (k / 8)).toNat >>> (k % 8)) % 2

/-- The value of the `n` bits of `Z` from bit `k` on, the first the least significant (42_deflate.md R163). -/
def State.zField (s : State) (k : Nat) : Nat → Nat
  | 0 => 0
  | n + 1 => s.zBit k + 2 * s.zField (k + 1) n

/-- The little-endian value of two bytes of `Z` (42_deflate.md R167). -/
def State.zLe16 (s : State) (k : Nat) : Nat := (s.zByte k).toNat + 256 * (s.zByte (k + 1)).toNat

/-- `Z[0..Z_LEN)` lies inside the buffer that holds it. -/
def State.zInside (s : State) : Prop :=
  if s.isObf then s.zLen ≤ s.cfg.rbCap else 5 + s.zLen ≤ s.cfg.inCap

/-- The bits of `Z` from bit `k` on are `bits`. -/
def State.zBitsAre (s : State) (k : Nat) : List Bool → Prop
  | [] => True
  | b :: bs => s.zBit k = b.toNat ∧ s.zBitsAre (k + 1) bs

/-- Between `s` and `t` no byte of any buffer changes but those of buffer `b` at indices `lo` to `hi - 1`. -/
def WritesOnly (b : Buf) (lo hi : Nat) (s t : State) : Prop :=
  ∀ c a, c ≠ b ∨ a < lo ∨ hi ≤ a → t.byteAt c a = s.byteAt c a

/-- No byte of any buffer changes between `s` and `t`. -/
def WritesNothing (s t : State) : Prop := ∀ c a, t.byteAt c a = s.byteAt c a

/-- What no step of a decode changes: the parameters, the descriptor, `IN` and `KEY` (20_memory.md R74, 60_exceptions.md
R290), and the host. -/
def InputsKept (s t : State) : Prop :=
  t.cfg = s.cfg ∧ t.width = s.width ∧ t.height = s.height ∧ t.fmtPri = s.fmtPri ∧ t.fmtSec = s.fmtSec ∧
    t.inLen = s.inLen ∧ t.inBuf = s.inBuf ∧ t.keyBuf = s.keyBuf ∧ t.resets = s.resets ∧ t.host = s.host ∧
    t.rdata = s.rdata

/-- The state that a decode error leaves, seen from the state `s` in which it was raised (60_exceptions.md R290). -/
def ErrorTaken (e : ErrCode) (s t : State) : Prop :=
  t.err = e.code ∧ t.status = statusError ||| s.obfPart ∧ t.outLen = 0 ∧ t.outFmt = 0 ∧ t.phase = .error ∧
    InputsKept s t ∧ ∀ a, t.byteAt .inB a = s.byteAt .inB a ∧ t.byteAt .key a = s.byteAt .key a

/-- What the end of a successful decode leaves, seen from the state `s` at the start of REPACK: the registers of
40_host_interface.md R128, every other register and variable as before, no byte of `IN` or `KEY` changed, and no byte of
`OUT` written at or beyond `size`. Of the working tables, which are no longer live, it says nothing
(93_implementation_defined.md U2). -/
def Finished (outFmt : Word) (size : Nat) (s t : State) : Prop :=
  t = { s with
    outLen := BitVec.ofNat 32 size, outFmt := outFmt, status := statusDone ||| s.obfPart, phase := .done
    out := t.out, rb := t.rb, raw := t.raw, forgets := t.forgets
    llLen := t.llLen, dLen := t.dLen, clLen := t.clLen
    ct := t.ct, cidx := t.cidx, alphaTab := t.alphaTab, aidx := t.aidx } ∧
    (∀ a, t.byteAt .inB a = s.byteAt .inB a ∧ t.byteAt .key a = s.byteAt .key a) ∧
    ∀ a, size ≤ a → (t.mem .out).get? a = (s.mem .out).get? a

/-! ## The tables of the encodings, for claims -/

/-- How many values a format has (30_encoding.md R91, R94, R98, R101, R103, R104, R113). -/
def valueSpace : Format → Nat
  | .cmd => 2 ^ 32
  | .fmt => 2 ^ 33
  | .hdr16 => 2 ^ 16
  | .blkhdr => 4
  | .litlen => 288
  | .dist => 32
  | .clsym => 19

/-- 30_encoding.md R102 line by line: the instruction, its symbol, its extra bits, its base. -/
def lengthRows : List (Instr × Nat × Nat × Nat) :=
  [(.len257, 257, 0, 3), (.len258, 258, 0, 4), (.len259, 259, 0, 5), (.len260, 260, 0, 6), (.len261, 261, 0, 7),
    (.len262, 262, 0, 8), (.len263, 263, 0, 9), (.len264, 264, 0, 10), (.len265, 265, 1, 11), (.len266, 266, 1, 13),
    (.len267, 267, 1, 15), (.len268, 268, 1, 17), (.len269, 269, 2, 19), (.len270, 270, 2, 23), (.len271, 271, 2, 27),
    (.len272, 272, 2, 31), (.len273, 273, 3, 35), (.len274, 274, 3, 43), (.len275, 275, 3, 51), (.len276, 276, 3, 59),
    (.len277, 277, 4, 67), (.len278, 278, 4, 83), (.len279, 279, 4, 99), (.len280, 280, 4, 115),
    (.len281, 281, 5, 131), (.len282, 282, 5, 163), (.len283, 283, 5, 195), (.len284, 284, 5, 227),
    (.len285, 285, 0, 258)]

/-- 30_encoding.md R103 line by line: the instruction, its symbol, its extra bits, its base. -/
def distanceRows : List (Instr × Nat × Nat × Nat) :=
  [(.dist0, 0, 0, 1), (.dist1, 1, 0, 2), (.dist2, 2, 0, 3), (.dist3, 3, 0, 4), (.dist4, 4, 1, 5), (.dist5, 5, 1, 7),
    (.dist6, 6, 2, 9), (.dist7, 7, 2, 13), (.dist8, 8, 3, 17), (.dist9, 9, 3, 25), (.dist10, 10, 4, 33),
    (.dist11, 11, 4, 49), (.dist12, 12, 5, 65), (.dist13, 13, 5, 97), (.dist14, 14, 6, 129), (.dist15, 15, 6, 193),
    (.dist16, 16, 7, 257), (.dist17, 17, 7, 385), (.dist18, 18, 8, 513), (.dist19, 19, 8, 769), (.dist20, 20, 9, 1025),
    (.dist21, 21, 9, 1537), (.dist22, 22, 10, 2049), (.dist23, 23, 10, 3073), (.dist24, 24, 11, 4097),
    (.dist25, 25, 11, 6145), (.dist26, 26, 12, 8193), (.dist27, 27, 12, 12289), (.dist28, 28, 13, 16385),
    (.dist29, 29, 13, 24577)]

/-- What 43_pixel_formats.md R211 and R212 say of one format: its raw size, its dimension check, its output size. -/
structure FormatSpec where
  /-- The row of the opcode table. -/
  instr : Instr
  /-- Its value of `FMT` (30_encoding.md R108). -/
  code : Nat
  /-- `N`, from the width and the height. -/
  raw : Nat → Nat → Nat
  /-- The dimensions raise no `ERR_DIM`. -/
  fits : Nat → Nat → Bool
  /-- `OUT_SIZE`. -/
  out : Nat → Nat → Nat

/-- 43_pixel_formats.md R211 and R212, line by line. -/
def formatSpecs : List FormatSpec :=
  [{ instr := .bgra4444, code := 1, raw := fun w h => w * h * 2, fits := fun _ _ => true, out := fun w h => w * h * 4 },
    { instr := .bgra8888, code := 2, raw := fun w h => w * h * 4, fits := fun _ _ => true, out := fun w h => w * h * 4 },
    { instr := .tile4444, code := 3, raw := fun w h => 2 * ((w + 3) / 4) * ((h + 3) / 4), fits := fun _ _ => true
      out := fun w h => w * h * 4 },
    { instr := .rgb565, code := 513, raw := fun w h => w * h * 2, fits := fun _ _ => true, out := fun w h => w * h * 2 },
    { instr := .gray1x16, code := 517, raw := fun w h => w * h / 128, fits := fun w h => 128 * (w * h / 128) == w * h
      out := fun w h => w * h * 4 },
    { instr := .dxt3, code := 1026, raw := fun w h => w * h
      fits := fun w h => 16 * ((w + 3) / 4) * ((h + 3) / 4) == w * h, out := fun w h => w * h * 4 },
    { instr := .dxt5, code := 2050, raw := fun w h => w * h
      fits := fun w h => 16 * ((w + 3) / 4) * ((h + 3) / 4) == w * h, out := fun w h => w * h * 4 }]

/-- The header value of an `HDR16` row (30_encoding.md R95). -/
def headerOf : Instr → Option Half
  | .plain0178 => some 0x0178
  | .plain5E78 => some 0x5E78
  | .plain9C78 => some 0x9C78
  | .plainDA78 => some 0xDA78
  | .obf h => some h
  | _ => none

/-- What a code-length symbol appends (30_encoding.md R104): the code length, how often, and the extra bits it reads. -/
def State.clAppends (s : State) : Instr → Option (Nat × Nat × Nat)
  | .cl0to15 v => some (v, 1, 0)
  | .cl16 => s.lens.getLast?.map fun v => (v, 3 + s.zField s.bitPos 2, 2)
  | .cl17 => some (0, 3 + s.zField s.bitPos 3, 3)
  | .cl18 => some (0, 11 + s.zField s.bitPos 7, 7)
  | _ => none

/-- The transitions of 10_state.md R34 that the engine makes, and its staying in a phase of several steps (log 1). -/
def engineArrows : List (Phase × Phase) :=
  [(.fetch, .done), (.fetch, .dispatch), (.fetch, .error), (.dispatch, .classify), (.dispatch, .error),
    (.classify, .strip), (.classify, .inflate), (.classify, .error), (.strip, .inflate), (.strip, .error),
    (.inflate, .repack), (.inflate, .error), (.repack, .done), (.strip, .strip), (.inflate, .inflate)]

/-- Nibble replication, `17 * n` (00_scope.md R9). -/
def nibble (n : Nat) : Byte := BitVec.ofNat 8 (17 * n)

/-- The four bytes of the pixel at `(x, y)` in `OUT`, in the order B, G, R, A (20_memory.md R63). -/
def State.pixel (s : State) (x y : Nat) : List Byte :=
  (List.range 4).map fun c => s.byteAt .out ((y * s.w + x) * 4 + c)

/-- The byte `RAW[a]`. -/
def State.rawAt (s : State) (a : Nat) : Nat := (s.byteAt .raw a).toNat

/-- `k` steps lead from `s` to `t`. -/
def stepsTo : Nat → State → State → Prop
  | 0, s, t => s = t
  | k + 1, s, t => ∃ u, step s = .next u ∧ stepsTo k u t

/-! ## Turns -/

/-- The next action is the engine's, in a running decode: no `STATUS` read and no reset stands first in the queue. -/
def State.engineTurn (s : State) : Bool :=
  s.phase.running &&
    match s.host with
    | .pollStatus :: _ => false
    | .reset :: _ => false
    | _ => true

/-- The next action is the host move `m`, at an engine that is not running a decode. -/
def State.hostTurn (s : State) (m : HostMove) (rest : List HostMove) : Prop :=
  s.phase.running = false ∧ s.host = m :: rest

/-- A decode has ended: `BUSY = 0` and exactly one of DONE and ERROR is 1 (00_scope.md R18). -/
def State.ended (s : State) : Prop :=
  s.busy = false ∧ (s.isDone = true ∧ s.isError = false ∨ s.isDone = false ∧ s.isError = true)

/-! ## The invariant of well-formed states -/

/-- The values `STATUS` takes in a phase (10_state.md R22, R34). -/
def Phase.statusAllowed : Phase → List Word
  | .idle => [0]
  | .fetch | .dispatch | .classify => [1]
  | .strip => [17]
  | .inflate | .repack => [1, 17]
  | .done => [2, 10, 18]
  | .error => [4, 20]

/-- The payload lies in the window (40_host_interface.md R124, R125). -/
def State.payloadFits (s : State) : Prop :=
  1 ≤ s.p ∧ 5 + s.p ≤ s.inLen.toNat ∧ s.inLen.toNat ≤ s.cfg.inCap

/-- What DISPATCH has established (43_pixel_formats.md R210 to R212, R220; 40_host_interface.md R126). -/
def State.formatFits (s : State) : Prop :=
  s.fmt = s.effectiveFmt ∧ s.fmt ∈ formatCodes ∧ s.n = rawSize s.fmt s.w s.h ∧ dimsFit s.fmt s.w s.h = true ∧
    s.n ≤ s.cfg.rawCap ∧ outSize s.fmt s.w s.h ≤ s.cfg.outCap

/-- The bounds of the stripper's cursors (41_framing.md R146). -/
def State.stripFits (s : State) : Prop :=
  s.inPos ≤ s.p ∧ (s.inPos = 0 ∧ s.rbLen = 0 ∨ s.rbLen + 4 ≤ s.inPos)

/-- The stream is inside its buffer and no longer than the payload, and a byte is still wanted (10_state.md R33). -/
def State.streamFits (s : State) : Prop := s.zInside ∧ s.zLen ≤ s.p ∧ s.rawPos < s.n

/-- The bounds of INFLATE's cursors, at each place inside it (10_state.md R33). -/
def State.inflateFits (s : State) : Prop :=
  match s.sub with
  | .entry => s.isObf = true → s.rbLen ≤ s.cfg.rbCap ∧ s.rbLen ≤ s.p
  | .header => s.streamFits
  | .codeLens =>
    s.streamFits ∧ s.nlen ≤ 286 ∧ s.ndist ≤ 30 ∧ s.lens.length < s.nlen + s.ndist ∧ 257 ≤ s.nlen ∧ 1 ≤ s.ndist ∧
      ∀ l ∈ s.lens, l ≤ 15
  | .litlen => s.streamFits
  | .dist => s.streamFits ∧ 3 ≤ s.matchLen ∧ s.matchLen ≤ 258

/-- What holds of the sequencer in each phase. -/
def State.phaseFits (s : State) : Prop :=
  match s.phase with
  | .idle | .fetch | .done | .error => True
  | .dispatch => s.payloadFits
  | .classify => s.payloadFits ∧ s.formatFits
  | .strip => s.payloadFits ∧ s.formatFits ∧ 2 ≤ s.p ∧ s.stripFits
  | .inflate => s.payloadFits ∧ s.formatFits ∧ s.inflateFits
  | .repack => s.payloadFits ∧ s.formatFits ∧ s.rawPos = s.n

/-- The working tables have the sizes and the entries of 10_state.md R36, R37. -/
structure State.TablesFit (s : State) : Prop where
  llLen : s.llLen.length = 288 ∧ ∀ l ∈ s.llLen, l ≤ 15
  dLen : s.dLen.length = 32 ∧ ∀ l ∈ s.dLen, l ≤ 15
  clLen : s.clLen.length = 19 ∧ ∀ l ∈ s.clLen, l ≤ 7
  ct : s.ct.length = 4
  cidx : s.cidx.length = 16 ∧ ∀ k ∈ s.cidx, k ≤ 3
  alphaTab : s.alphaTab.length = 16
  aidx : s.aidx.length = 16 ∧ ∀ k ∈ s.aidx, k ≤ 7
  bfinal : s.bfinal ≤ 1
  btype : s.btype ≤ 3

/-- A well-formed state: what every run keeps. -/
structure State.Inv (s : State) : Prop where
  /-- The parameters satisfy 00_scope.md R6. -/
  cfg : s.cfg.wf
  /-- Every buffer's contents are in canonical form. -/
  canonical : ∀ b, (s.mem b).wf = true
  /-- No byte has been written outside a buffer (10_state.md R29). -/
  inside : ∀ b a, s.capOf b ≤ a → (s.mem b).get? a = none
  /-- Bits 31:8 of `FMT_SEC` read 0 (10_state.md R25). -/
  fmtSec : s.fmtSec.toNat < 256
  /-- `STATUS` is one of the values of its phase (10_state.md R22, R34). -/
  status : s.status ∈ s.phase.statusAllowed
  /-- `ERR` is 0 whenever `STATUS.ERROR` is, and a code of 60_exceptions.md R285 otherwise (10_state.md R23). -/
  err : if s.phase = .error then 1 ≤ s.err.toNat ∧ s.err.toNat ≤ 8 else s.err = 0
  /-- There is a result only in DONE (10_state.md R27, R28). -/
  result : if s.phase = .done then s.outLen.toNat ≤ s.cfg.outCap ∧ s.outFmt.toNat ≤ 1 else s.outLen = 0 ∧ s.outFmt = 0
  /-- Between decodes and during one, until its pixels are complete, no byte of `OUT` holds a written value
  (60_exceptions.md R298, log 9). -/
  outEmpty : s.phase ≠ .done → s.out = []
  tables : s.TablesFit
  phase : s.phaseFits

end Sys2Proof.Machine
end

