-- ==== Sys2Proof/Certificates/Slice0/Obligations.lean ====
section
/-! DEFINITION. The statements about the model, each from the numbered rules of spec/ its docstring names. -/

open Sys2Proof Sys2Proof.Machine

/-! ## Encodings -/

/-- Decoding the encoding of a well-formed instruction gives it back, for every instruction and every value of its
operand (30_encoding.md R113). -/
def Obligations.DecodeOfEncode : Prop :=
  ∀ i, WellFormed i = true → decode (encode i).1 (encode i).2 = .ok i

/-- A value that decodes is the encoding of a well-formed instruction, a `CTRL` write up to its ignored bits
(30_encoding.md R91, R113). -/
def Obligations.EncodeOfDecode : Prop :=
  ∀ f v i, decode f v = .ok i → WellFormed i = true ∧ encode i = (f, if f = .cmd then v % 4 else v)

/-- Every value of a format's value space selects a row, and no other value does (30_encoding.md R113). -/
def Obligations.DecodeCoversValueSpaces : Prop :=
  ∀ f v, (∃ i, decode f v = .ok i) ↔ v < valueSpace f

/-- A few values written out from the tables of 30_encoding.md decode to the rows they stand for. The last two clauses, on
`decodeTableWord`, rest on the model's choice of how a word of the opcode table names its format (log 3). -/
def Obligations.WrittenOutWordsDecode : Prop :=
  decode .cmd 0b01 = .ok .start ∧ decode .cmd 0b10 = .ok .clear ∧ decode .cmd 0xFFFFFFFC = .ok .nop ∧
    decode .fmt 0x402 = .ok .dxt3 ∧ decode .fmt 999 = .ok (.unsupported 999) ∧
    decode .hdr16 0x9C78 = .ok .plain9C78 ∧ decode .hdr16 0x789C = .ok (.obf 0x789C) ∧
    decode .blkhdr 0b10 = .ok .dynamic ∧ decode .litlen 65 = .ok (.lit 0x41) ∧ decode .litlen 256 = .ok .eob ∧
    decode .litlen 266 = .ok .len266 ∧ decode .dist 4 = .ok .dist4 ∧ decode .clsym 18 = .ok .cl18 ∧
    decodeTableWord 40 0x00000802 = some .dxt5 ∧ decodeTableWord 16 0x011D = some .len285

/-- A step runs the instruction that the next action selects, with exactly what the fetch adds: the host's move taken
from the queue, `FMT` computed, or the cursor moved past the bits read (10_state.md R32, R34; log 1). -/
def Obligations.StepRunsDecoded : Prop :=
  (∀ s v rest i, s.hostTurn (.writeReg 0 v) rest → decode .cmd v.toNat = .ok i →
    step s = exec i { s with host := rest }) ∧
  (∀ s i, s.engineTurn = true → s.phase = .dispatch → decode .fmt s.effectiveFmt = .ok i →
    step s = exec i { s with fmt := s.effectiveFmt }) ∧
  (∀ s i, s.engineTurn = true → s.phase = .classify → 2 ≤ s.p → 7 ≤ s.cfg.inCap →
    decode .hdr16 (s.le .inB 5 2) = .ok i → step s = exec i s) ∧
  (∀ s i, s.engineTurn = true → s.phase = .strip → 7 ≤ s.cfg.inCap →
    decode .hdr16 (s.le .inB 5 2) = .ok i → step s = exec i s) ∧
  (∀ s i, s.engineTurn = true → s.phase = .inflate → s.sub = .header → s.zInside → s.bitPos + 3 ≤ 8 * s.zLen →
    decode .blkhdr (s.zField (s.bitPos + 1) 2) = .ok i →
    step s = exec i { s with
      bitPos := s.bitPos + 3, bfinal := s.zBit s.bitPos, btype := s.zField (s.bitPos + 1) 2 }) ∧
  (∀ s t f lens v i, s.engineTurn = true → s.phase = .inflate →
    (s.sub = .codeLens ∧ f = .clsym ∧ lens = s.clLen ∨ s.sub = .litlen ∧ f = .litlen ∧ lens = s.llLen ∨
      s.sub = .dist ∧ f = .dist ∧ lens = s.dLen) →
    readSymbol lens s = .ok v t → decode f v = .ok i → step s = exec i t) ∧
  ∀ s i, s.engineTurn = true → s.phase = .repack → decode .fmt s.fmt = .ok i → step s = exec i s

/-! ## Huffman codes -/

/-- The code lengths and the codewords of a FIXED block (30_encoding.md R100). -/
def Obligations.FixedCodes : Prop :=
  (∀ s < 288,
    fixedLitlenLens.getD s 0 = (if s < 144 then 8 else if s < 256 then 9 else if s < 280 then 7 else 8) ∧
      msbFirst (fixedLitlenLens.getD s 0) (codeword fixedLitlenLens s) = fixedLitlenCode s) ∧
  ∀ d < 32, fixedDistLens.getD d 0 = 5 ∧ msbFirst 5 (codeword fixedDistLens d) = fixedDistCode d

/-- The symbol found for `l` bits of value `v` is the one whose length is `l` and whose canonical codeword is `v`, and
there is one only then (42_deflate.md R170, R171). -/
def Obligations.SymbolOfIsCanonical : Prop :=
  ∀ lens l v sym, 1 ≤ l →
    (symbolOf lens l v = some sym ↔ sym < lens.length ∧ lens.getD sym 0 = l ∧ codeword lens sym = v)

/-- A code that is not over-subscribed is prefix-free: where the stream goes on with the codeword of a symbol, first bit
the most significant, exactly that symbol is decoded and exactly its bits are read (42_deflate.md R170, R171;
30_encoding.md R107). -/
def Obligations.HuffmanDecode : Prop :=
  ∀ (lens : List Nat) (sym : Nat) (s : State), (∀ l ∈ lens, l ≤ 15) → kraft lens ≤ 2 ^ 15 → sym < lens.length →
    lens.getD sym 0 ≠ 0 → s.zInside → s.bitPos + lens.getD sym 0 ≤ 8 * s.zLen →
    s.zBitsAre s.bitPos (msbFirst (lens.getD sym 0) (codeword lens sym)) →
    readSymbol lens s = .ok sym { s with bitPos := s.bitPos + lens.getD sym 0 }

/-- The validity test of a set of code lengths (42_deflate.md R172). -/
def Obligations.CodeLengthsCheck : Prop :=
  ∀ isCl lens, codeLengthsOk isCl lens = true ↔
    kraft lens ≤ 2 ^ 15 ∧
      (kraft lens = 2 ^ 15 ∨ (∀ l ∈ lens, l = 0) ∨
        isCl = false ∧ ∃ k < lens.length, lens.getD k 0 = 1 ∧ ∀ j, j ≠ k → lens.getD j 0 = 0)

/-! ## Reset, commands, host moves -/

/-- After reset the engine is idle and every register reads 0: in State.reset, and after a reset at any moment, which
abandons a running decode (10_state.md R39, 70_reset_and_hazards.md R320). That the parameters and the host's pending
moves outlast a reset is the model's reading (log 16). -/
def Obligations.ResetState : Prop :=
  (∀ c, (State.resetWith c).phase = .idle ∧ ∀ r ≤ 9, (State.resetWith c).readReg? r = some 0) ∧
  State.reset = State.resetWith Config.standard ∧
  ∀ s rest, s.host = .reset :: rest →
    ∃ t, step s = .next t ∧ t.phase = .idle ∧ (∀ r ≤ 9, t.readReg? r = some 0) ∧ t.cfg = s.cfg ∧ t.host = rest

/-- A START directly after reset ends with `ERR_SOURCE`, for every configuration (10_state.md R40). -/
def Obligations.StartAfterReset : Prop :=
  ∀ c, ∃ t, stepsTo 2 { State.resetWith c with host := [.writeReg 0 1] } t ∧ t.ended ∧ t.isError = true ∧
    t.err = ErrCode.source.code

/-- START at an engine that is not busy: the registers it clears, the phase, and everything else as before but the
contents of `RB`, `RAW` and `OUT` and the working tables, of which it says nothing (40_host_interface.md R121;
93_implementation_defined.md U2, log 9). -/
def Obligations.Start : Prop :=
  ∀ s, s.busy = false →
    ∃ t, exec .start s = .next t ∧
      t = { s with
        status := statusBusy, err := 0, outLen := 0, outFmt := 0, phase := .fetch
        rb := t.rb, raw := t.raw, out := t.out, forgets := t.forgets
        llLen := t.llLen, dLen := t.dLen, clLen := t.clLen
        ct := t.ct, cidx := t.cidx, alphaTab := t.alphaTab, aidx := t.aidx } ∧
      ∀ a, t.byteAt .inB a = s.byteAt .inB a ∧ t.byteAt .key a = s.byteAt .key a

/-- CLEAR at an engine that is not busy, of the contents of `RB`, `RAW` and `OUT` and the working tables of which it says
nothing, and that in IDLE it changes nothing (40_host_interface.md R122; 93_implementation_defined.md U2, log 9). -/
def Obligations.Clear : Prop :=
  (∀ s, s.busy = false →
    ∃ t, exec .clear s = .next t ∧
      t = { s with
        status := 0, err := 0, outLen := 0, outFmt := 0, phase := .idle
        rb := t.rb, raw := t.raw, out := t.out, forgets := t.forgets
        llLen := t.llLen, dLen := t.dLen, clLen := t.clLen
        ct := t.ct, cidx := t.cidx, alphaTab := t.alphaTab, aidx := t.aidx } ∧
      ∀ a, t.byteAt .inB a = s.byteAt .inB a ∧ t.byteAt .key a = s.byteAt .key a) ∧
  ∀ s, s.Inv → s.phase = .idle → exec .clear s = .next s

/-- A `CTRL` write runs the command of its bits 1:0, the other bits ignored: nothing, START, CLEAR, or CLEAR then START,
which is START alone (30_encoding.md R91, 40_host_interface.md R123). -/
def Obligations.CtrlWrite : Prop :=
  (∀ s v rest, s.hostTurn (.writeReg 0 v) rest → s.busy = false →
    (v.toNat % 4 = 0 → step s = .next { s with host := rest }) ∧
    (v.toNat % 4 = 1 → step s = exec .start { s with host := rest }) ∧
    (v.toNat % 4 = 2 → step s = exec .clear { s with host := rest }) ∧
    (v.toNat % 4 = 3 → step s = exec .start { s with host := rest })) ∧
  ∀ s, s.busy = false →
    exec .nop s = .next s ∧ exec .clearStart s = exec .start s ∧ ∃ t, exec .clearStart s = .next t ∧ t.phase = .fetch

/-- A command at a busy engine is a move the host does not have: the model refuses it. The model's choice among those
of 93_implementation_defined.md U6 (log 14). -/
def Obligations.CommandWhileBusy : Prop :=
  ∀ i ∈ [Instr.nop, .start, .clear, .clearStart], ∀ s, s.busy = true → exec i s = .refused .commandWhileBusy

/-- The host's moves at an engine that is not running: a write changes only what was written, a read changes nothing
but what the host holds; the registers 3 to 7, `IN`, `KEY`, reading the ten registers, reading `OUT`
(40_host_interface.md R120, 10_state.md R20). The model's choices: what was read stands in `rdata` (log 12); a read of
`OUT` outside a valid result, which 40_host_interface.md R129 says the host must not make, completes with an unspecified
byte, in IDLE and ERROR too (log 26). -/
def Obligations.HostMoves : Prop :=
  (∀ s v rest,
    (s.hostTurn (.writeReg 3 v) rest → step s = .next { s with host := rest, width := v }) ∧
    (s.hostTurn (.writeReg 4 v) rest → step s = .next { s with host := rest, height := v }) ∧
    (s.hostTurn (.writeReg 5 v) rest → step s = .next { s with host := rest, fmtPri := v }) ∧
    (s.hostTurn (.writeReg 6 v) rest → step s = .next { s with host := rest, fmtSec := v &&& 0xFF }) ∧
    (s.hostTurn (.writeReg 7 v) rest → step s = .next { s with host := rest, inLen := v })) ∧
  (∀ s a v rest, s.hostTurn (.writeIn a v) rest → a < s.cfg.inCap →
    ∃ t, step s = .next t ∧ t.byteAt .inB a = v ∧ WritesOnly .inB a (a + 1) s t ∧
      t = { s with host := rest, inBuf := t.inBuf }) ∧
  (∀ s a v rest, s.hostTurn (.writeKey a v) rest → a < s.cfg.keyLen →
    ∃ t, step s = .next t ∧ t.byteAt .key a = v ∧ WritesOnly .key a (a + 1) s t ∧
      t = { s with host := rest, keyBuf := t.keyBuf }) ∧
  (∀ s r v rest, s.hostTurn (.readReg r) rest → r ≤ 9 →
    [0, s.status, s.err, s.width, s.height, s.fmtPri, s.fmtSec, s.inLen, s.outLen, s.outFmt][r]? = some v →
    step s = .next { s with host := rest, rdata := v }) ∧
  ∀ s a rest, s.hostTurn (.readOut a) rest → a < s.cfg.outCap →
    ∃ t, step s = .next t ∧ t.rdata.toNat = (s.byteAt .out a).toNat ∧ t = { s with host := rest, rdata := t.rdata }

/-- In every well-formed state `STATUS` shows what the engine is doing, at most one of BUSY, DONE and ERROR, and reading
it is possible at any time, busy or not (10_state.md R22, R34; 70_reset_and_hazards.md R324; log 15). -/
def Obligations.StatusShowsPhase : Prop :=
  ∀ s, s.Inv →
    s.busy = s.phase.running ∧ (s.isDone = true ↔ s.phase = .done) ∧ (s.isError = true ↔ s.phase = .error) ∧
      (s.isEmpty = true → s.isDone = true) ∧ s.status.toNat < 32 ∧ (s.phase ≠ .error → s.err = 0) ∧
      ∀ rest, s.host = .pollStatus :: rest → step s = .next { s with host := rest, rdata := s.status }

/-! ## Taking an error -/

/-- What `raise` does (60_exceptions.md R290). -/
def Obligations.RaiseEffect : Prop :=
  ∀ e s,
    (takeError e s).err = e.code ∧ (takeError e s).status = statusError ||| s.obfPart ∧
      (takeError e s).outLen = 0 ∧ (takeError e s).outFmt = 0 ∧ (takeError e s).phase = .error ∧
      InputsKept s (takeError e s) ∧
      (∀ a, (takeError e s).byteAt .inB a = s.byteAt .inB a ∧ (takeError e s).byteAt .key a = s.byteAt .key a) ∧
      1 ≤ e.code.toNat ∧ e.code.toNat ≤ 8

/-- A step that ends in ERROR leaves no partial result: no length, DONE clear, a code of R285, and no byte of `OUT` that
the failing decode wrote; and it was not taken in REPACK (60_exceptions.md R298). -/
def Obligations.FailedDecodeLeavesNoResult : Prop :=
  ∀ s t, s.Inv → s.engineTurn = true → step s = .next t → t.phase = .error →
    t.outLen = 0 ∧ t.outFmt = 0 ∧ t.isDone = false ∧ 1 ≤ t.err.toNat ∧ t.err.toNat ≤ 8 ∧
      (∀ a, (t.mem .out).get? a = none) ∧ s.phase ≠ .repack ∧ InputsKept s t

/-! ## FETCH and DISPATCH -/

/-- The bounds of the input window (40_host_interface.md R124). -/
def Obligations.FetchBounds : Prop :=
  ∀ s, s.engineTurn = true → s.phase = .fetch →
    (s.cfg.inCap < s.inLen.toNat → ∃ t, step s = .next t ∧ ErrorTaken .cap s t) ∧
    (s.inLen.toNat ≤ s.cfg.inCap → s.inLen.toNat < 5 → ∃ t, step s = .next t ∧ ErrorTaken .source s t)

/-- The length field: an empty asset, a blob that runs past the window, or on to DISPATCH with `P` (40_host_interface.md
R125). -/
def Obligations.FetchLength : Prop :=
  ∀ s, s.engineTurn = true → s.phase = .fetch → 5 ≤ s.inLen.toNat → s.inLen.toNat ≤ s.cfg.inCap →
    (s.lField ≤ 1 →
      ∃ t, step s = .next t ∧ t.status = statusDone ||| statusEmpty ∧ t.outLen = 0 ∧ t.outFmt = 0 ∧ t.phase = .done ∧
        t.err = s.err ∧ InputsKept s t) ∧
    (∀ p : Nat, s.lField = p + 1 → 1 ≤ p → s.inLen.toNat < 5 + p → ∃ t, step s = .next t ∧ ErrorTaken .source s t) ∧
    ∀ p : Nat, s.lField = p + 1 → 1 ≤ p → 5 + p ≤ s.inLen.toNat →
      ∃ t, step s = .next t ∧ t = { s with p := p, phase := .dispatch } ∧ WritesNothing s t

/-- An effective format that is none of the seven codes raises `ERR_FORMAT`, the sum not wrapping (43_pixel_formats.md
R220, R210); and the row of such a format does so in any state. -/
def Obligations.UnsupportedFormat : Prop :=
  (∀ s, s.engineTurn = true → s.phase = .dispatch →
    s.fmtPri.toNat + s.fmtSec.toNat % 256 ∉ [1, 2, 3, 513, 517, 1026, 2050] →
    ∃ t, step s = .next t ∧ ErrorTaken .format s t) ∧
  ∀ v s, ∃ t, exec (.unsupported v) s = .next t ∧ ErrorTaken .format s t

/-- DISPATCH for each of the seven formats: the raw size, the dimension check, the capacities (43_pixel_formats.md R211,
40_host_interface.md R126). -/
def Obligations.DispatchSizes : Prop :=
  ∀ f ∈ formatSpecs, ∀ s, s.phase = .dispatch →
    (f.fits s.w s.h = false → ∃ t, exec f.instr s = .next t ∧ ErrorTaken .dim s t) ∧
    (f.fits s.w s.h = true → s.cfg.rawCap < f.raw s.w s.h ∨ s.cfg.outCap < f.out s.w s.h →
      ∃ t, exec f.instr s = .next t ∧ ErrorTaken .cap s t) ∧
    (f.fits s.w s.h = true → f.raw s.w s.h ≤ s.cfg.rawCap → f.out s.w s.h ≤ s.cfg.outCap →
      ∃ t, exec f.instr s = .next t ∧ t = { s with n := f.raw s.w s.h, phase := .classify } ∧ WritesNothing s t)

/-! ## CLASSIFY and STRIP -/

/-- Classification: a payload of one byte raises `ERR_FRAMING`; otherwise the 16-bit header decides, by membership in
`ZLIB_HDR_SET` alone, between INFLATE with `OBF` clear and STRIP with `OBF` set and the stripper's cursors at 0; each
header row has that effect (41_framing.md R140, R141, R142, R143). -/
def Obligations.Classification : Prop :=
  (∀ s, s.engineTurn = true → s.phase = .classify → s.p < 2 → ∃ t, step s = .next t ∧ ErrorTaken .framing s t) ∧
  (∀ s, s.engineTurn = true → s.phase = .classify → 2 ≤ s.p → 5 + s.p ≤ s.cfg.inCap →
    (BitVec.ofNat 16 ((s.byteAt .inB 5).toNat + 256 * (s.byteAt .inB 6).toNat) ∈ s.cfg.hdrSet →
      step s = .next { s with status := s.status &&& 0xFFFFFFEF, phase := .inflate, sub := .entry }) ∧
    (BitVec.ofNat 16 ((s.byteAt .inB 5).toNat + 256 * (s.byteAt .inB 6).toNat) ∉ s.cfg.hdrSet →
      step s = .next { s with status := s.status ||| 0x10, phase := .strip, inPos := 0, rbLen := 0 })) ∧
  (∀ s : State, s.cfg.hdrSet = Config.zlibHdrSet →
    (BitVec.ofNat 16 ((s.byteAt .inB 5).toNat + 256 * (s.byteAt .inB 6).toNat) ∈ s.cfg.hdrSet ↔
      s.byteAt .inB 5 = 0x78 ∧ s.byteAt .inB 6 ∈ [0x01, 0x5E, 0x9C, 0xDA])) ∧
  ∀ i h s, headerOf i = some h → s.phase = .classify →
    (h ∈ s.cfg.hdrSet → ∃ t, exec i s = .next t ∧
      t = { s with status := s.status &&& 0xFFFFFFEF, phase := .inflate, sub := .entry } ∧ WritesNothing s t) ∧
    (h ∉ s.cfg.hdrSet → ∃ t, exec i s = .next t ∧
      t = { s with status := s.status ||| 0x10, phase := .strip, inPos := 0, rbLen := 0 } ∧ WritesNothing s t)

/-- One record of the obfuscated framing: its bytes, each xor-ed with the key byte of its place in the record, are
appended to `RB`, and nothing else changes but the two cursors (41_framing.md R144, R145). -/
def Obligations.StripRecord : Prop :=
  ∀ i h s, headerOf i = some h → s.phase = .strip → 5 + s.p ≤ s.cfg.inCap → s.inPos + 4 ≤ s.p →
    s.inPos + 4 + s.le .inB (5 + s.inPos) 4 ≤ s.p → s.le .inB (5 + s.inPos) 4 ≤ s.cfg.keyLen →
    s.rbLen + s.le .inB (5 + s.inPos) 4 ≤ s.cfg.rbCap →
    ∃ t, exec i s = .next t ∧
      (∀ j < s.le .inB (5 + s.inPos) 4,
        t.byteAt .rb (s.rbLen + j) = s.byteAt .inB (5 + (s.inPos + 4 + j)) ^^^ s.byteAt .key j) ∧
      WritesOnly .rb s.rbLen (s.rbLen + s.le .inB (5 + s.inPos) 4) s t ∧
      t = { s with
        rb := t.rb, rbLen := s.rbLen + s.le .inB (5 + s.inPos) 4
        inPos := s.inPos + 4 + s.le .inB (5 + s.inPos) 4 }

/-- Where the record loop ends, and where it raises: a size field cut short, a record that runs past the payload, a
record longer than the key (41_framing.md R144, R145). -/
def Obligations.StripEndsOrRaises : Prop :=
  ∀ i h s, headerOf i = some h → s.phase = .strip → 5 + s.p ≤ s.cfg.inCap →
    (s.p ≤ s.inPos →
      ∃ t, exec i s = .next t ∧ t = { s with phase := .inflate, sub := .entry } ∧ WritesNothing s t) ∧
    (s.inPos < s.p → s.p < s.inPos + 4 → ∃ t, exec i s = .next t ∧ ErrorTaken .framing s t) ∧
    (s.inPos + 4 ≤ s.p → s.p < s.inPos + 4 + s.le .inB (5 + s.inPos) 4 →
      ∃ t, exec i s = .next t ∧ ErrorTaken .framing s t) ∧
    (s.inPos + 4 + s.le .inB (5 + s.inPos) 4 ≤ s.p → s.cfg.keyLen < s.le .inB (5 + s.inPos) 4 →
      s.rbLen + s.cfg.keyLen ≤ s.cfg.rbCap → ∃ t, exec i s = .next t ∧ ErrorTaken .key s t)

/-! ## INFLATE: the stream -/

/-- INFLATE starts at bit 16 of the stream, whose length is that of the payload or of what was stripped, and is over at
once where no byte is wanted (41_framing.md R147; 42_deflate.md R160, R184). -/
def Obligations.InflateEntry : Prop :=
  ∀ s, s.engineTurn = true → s.phase = .inflate → s.sub = .entry →
    ∃ t, step s = .next t ∧
      t = { s with
        zLen := if s.isObf then s.rbLen else s.p, bitPos := 16, rawPos := 0
        phase := if s.n = 0 then .repack else .inflate, sub := if s.n = 0 then .entry else .header } ∧
      WritesNothing s t

/-- Wherever a bit of the stream is needed at or beyond its end, the decode ends with `ERR_TRUNC`: inside a block header,
before a symbol, inside its codeword (the bits left are a proper prefix of a codeword in force), inside the extra bits of
a length, distance or code-length symbol, inside the counts of a dynamic block (42_deflate.md R162, R171; 60_exceptions.md
R294). The bytes of a stored block: `StoredBlockRaises`; the lengths of the code-length code: `DynamicHeader`. -/
def Obligations.StreamExhausted : Prop :=
  (∀ s, s.engineTurn = true → s.phase = .inflate → s.sub = .header → s.zInside → 8 * s.zLen < s.bitPos + 3 →
    ∃ t, step s = .next t ∧ ErrorTaken .trunc s t) ∧
  (∀ s lens, s.engineTurn = true → s.phase = .inflate →
    (s.sub = .codeLens ∧ lens = s.clLen ∨ s.sub = .litlen ∧ lens = s.llLen ∨ s.sub = .dist ∧ lens = s.dLen) →
    (∃ l ∈ lens, l ≠ 0) → 8 * s.zLen ≤ s.bitPos → ∃ t, step s = .next t ∧ ErrorTaken .trunc s t) ∧
  (∀ s lens sym left, s.engineTurn = true → s.phase = .inflate →
    (s.sub = .codeLens ∧ lens = s.clLen ∨ s.sub = .litlen ∧ lens = s.llLen ∨ s.sub = .dist ∧ lens = s.dLen) →
    (∀ l ∈ lens, l ≤ 15) → kraft lens ≤ 2 ^ 15 → s.zInside → s.bitPos + left = 8 * s.zLen → left < lens.getD sym 0 →
    s.zBitsAre s.bitPos ((msbFirst (lens.getD sym 0) (codeword lens sym)).take left) →
    ∃ t, step s = .next t ∧ ErrorTaken .trunc s t) ∧
  (∀ r ∈ lengthRows ++ distanceRows, ∀ s, s.zInside → 0 < r.2.2.1 → 8 * s.zLen < s.bitPos + r.2.2.1 →
    ∃ t, exec r.1 s = .next t ∧ ErrorTaken .trunc s t) ∧
  (∀ i v r k s, s.clAppends i = some (v, r, k) → s.zInside → 0 < k → 8 * s.zLen < s.bitPos + k →
    ∃ t, exec i s = .next t ∧ ErrorTaken .trunc s t) ∧
  ∀ s, s.zInside → 8 * s.zLen < s.bitPos + 14 → ∃ t, exec .dynamic s = .next t ∧ ErrorTaken .trunc s t

/-- A code with no symbols cannot be used, and of a code with one symbol only the bit 0 can (42_deflate.md R171,
R172). -/
def Obligations.UnusableCode : Prop :=
  ∀ s lens, s.engineTurn = true → s.phase = .inflate →
    (s.sub = .codeLens ∧ lens = s.clLen ∨ s.sub = .litlen ∧ lens = s.llLen ∨ s.sub = .dist ∧ lens = s.dLen) →
    ((∀ l ∈ lens, l = 0) → ∃ t, step s = .next t ∧ ErrorTaken .stream s t) ∧
    (∀ k, lens.getD k 0 = 1 → (∀ j, j ≠ k → lens.getD j 0 = 0) → s.zInside → s.bitPos < 8 * s.zLen →
      s.zBit s.bitPos = 1 → ∃ t, step s = .next t ∧ ErrorTaken .stream s t)

/-! ## INFLATE: symbols -/

/-- A literal is emitted, and the stop rule is tested (42_deflate.md R164, R178). -/
def Obligations.EmitLiteral : Prop :=
  ∀ b s, s.rawPos < s.cfg.rawCap →
    ∃ t, exec (.lit b) s = .next t ∧ t.byteAt .raw s.rawPos = b ∧ WritesOnly .raw s.rawPos (s.rawPos + 1) s t ∧
      t = { s with
        raw := t.raw, rawPos := s.rawPos + 1, phase := if s.rawPos + 1 = s.n then .repack else s.phase }

/-- The end of a block: `ERR_TRUNC` after the final one, else the next block header (42_deflate.md R182, R160). -/
def Obligations.EndOfBlock : Prop :=
  ∀ s,
    (s.bfinal = 1 → ∃ t, exec .eob s = .next t ∧ ErrorTaken .trunc s t) ∧
    (s.bfinal ≠ 1 → ∃ t, exec .eob s = .next t ∧ t = { s with sub := .header } ∧ WritesNothing s t)

/-- The length symbols, line by line of their table: the length is the base plus the extra bits; symbols 286 and 287 are
never valid (30_encoding.md R102, 42_deflate.md R179). -/
def Obligations.LengthSymbols : Prop :=
  (∀ r ∈ lengthRows, decode .litlen r.2.1 = .ok r.1 ∧
    ∀ s, (0 < r.2.2.1 → s.zInside ∧ s.bitPos + r.2.2.1 ≤ 8 * s.zLen) →
      3 ≤ r.2.2.2 + s.zField s.bitPos r.2.2.1 ∧ r.2.2.2 + s.zField s.bitPos r.2.2.1 ≤ 258 ∧
      ∃ t, exec r.1 s = .next t ∧
        t = { s with
          bitPos := s.bitPos + r.2.2.1, matchLen := r.2.2.2 + s.zField s.bitPos r.2.2.1, sub := .dist } ∧
        WritesNothing s t) ∧
  ∀ v, v = 286 ∨ v = 287 → decode .litlen v = .ok (.litlenInvalid v) ∧
    ∀ s, ∃ t, exec (.litlenInvalid v) s = .next t ∧ ErrorTaken .stream s t

/-- The distance symbols, line by line of their table, and the copy: a distance beyond the bytes produced raises; a match
writes the bytes that repeat the last `dist` ones, up to the wanted count, and nothing else; symbols 30 and 31 are never
valid (30_encoding.md R103; 42_deflate.md R180, R181; 20_memory.md R75). -/
def Obligations.DistanceSymbols : Prop :=
  (∀ r ∈ distanceRows, decode .dist r.2.1 = .ok r.1 ∧
    ∀ s dist m, (0 < r.2.2.1 → s.zInside ∧ s.bitPos + r.2.2.1 ≤ 8 * s.zLen) →
      dist = r.2.2.2 + s.zField s.bitPos r.2.2.1 → m = min s.matchLen (s.n - s.rawPos) →
      1 ≤ dist ∧ dist ≤ 32768 ∧
      (s.rawPos < dist → ∃ t, exec r.1 s = .next t ∧ ErrorTaken .stream s t) ∧
      (dist ≤ s.rawPos → s.rawPos < s.n → s.n ≤ s.cfg.rawCap →
        ∃ t, exec r.1 s = .next t ∧
          (∀ j < m, t.byteAt .raw (s.rawPos + j) = s.byteAt .raw (s.rawPos - dist + j % dist)) ∧
          WritesOnly .raw s.rawPos (s.rawPos + m) s t ∧
          t = { s with
            raw := t.raw, rawPos := s.rawPos + m, bitPos := s.bitPos + r.2.2.1
            phase := if s.rawPos + m = s.n then .repack else s.phase
            sub := if s.rawPos + m = s.n then s.sub else .litlen })) ∧
  ∀ v, v = 30 ∨ v = 31 → decode .dist v = .ok (.distInvalid v) ∧
    ∀ s, ∃ t, exec (.distInvalid v) s = .next t ∧ ErrorTaken .stream s t

/-! ## INFLATE: blocks -/

/-- A stored block: its bytes are copied from the next byte boundary on, up to the wanted count or to its end
(42_deflate.md R167, R164). -/
def Obligations.StoredBlock : Prop :=
  ∀ s a len, s.zInside → a = (s.bitPos + 7) / 8 → a + 4 ≤ s.zLen → len = s.zLe16 a →
    s.zLe16 (a + 2) = len ^^^ 0xFFFF → s.rawPos < s.n → s.n ≤ s.cfg.rawCap →
    (s.n - s.rawPos ≤ len → a + 4 + (s.n - s.rawPos) ≤ s.zLen →
      ∃ t, exec .stored s = .next t ∧
        (∀ j < s.n - s.rawPos, t.byteAt .raw (s.rawPos + j) = s.zByte (a + 4 + j)) ∧
        WritesOnly .raw s.rawPos s.n s t ∧
        t = { s with
          raw := t.raw, rawPos := s.n, bitPos := 8 * (a + 4 + (s.n - s.rawPos) - 1), phase := .repack }) ∧
    (len < s.n - s.rawPos → a + 4 + len ≤ s.zLen → s.bfinal ≠ 1 →
      ∃ t, exec .stored s = .next t ∧
        (∀ j < len, t.byteAt .raw (s.rawPos + j) = s.zByte (a + 4 + j)) ∧
        WritesOnly .raw s.rawPos (s.rawPos + len) s t ∧
        t = { s with raw := t.raw, rawPos := s.rawPos + len, bitPos := 8 * (a + 4 + len), sub := .header })

/-- Where a stored block raises: its lengths cut short, a wrong complement, its bytes cut short, the final block over
before the wanted count (42_deflate.md R167, R182); and the reserved block type (R166). -/
def Obligations.StoredBlockRaises : Prop :=
  (∀ s a len, s.zInside → a = (s.bitPos + 7) / 8 → len = s.zLe16 a →
    (s.zLen < a + 4 → ∃ t, exec .stored s = .next t ∧ ErrorTaken .trunc s t) ∧
    (a + 4 ≤ s.zLen → s.zLe16 (a + 2) ≠ len ^^^ 0xFFFF → ∃ t, exec .stored s = .next t ∧ ErrorTaken .stream s t) ∧
    (a + 4 ≤ s.zLen → s.zLe16 (a + 2) = len ^^^ 0xFFFF → s.rawPos < s.n → s.n ≤ s.cfg.rawCap →
      s.zLen < a + 4 + min len (s.n - s.rawPos) → ∃ t, exec .stored s = .next t ∧ ErrorTaken .trunc s t) ∧
    (a + 4 + len ≤ s.zLen → s.zLe16 (a + 2) = len ^^^ 0xFFFF → len < s.n - s.rawPos → s.n ≤ s.cfg.rawCap →
      s.bfinal = 1 → ∃ t, exec .stored s = .next t ∧ ErrorTaken .trunc s t)) ∧
  ∀ s, ∃ t, exec .btypeReserved s = .next t ∧ ErrorTaken .stream s t

/-- A block in the fixed codes: the two tables, which pass the validity test, and the symbol loop (42_deflate.md R168). -/
def Obligations.FixedBlock : Prop :=
  (∀ s, ∃ t, exec .fixed s = .next t ∧
    t = { s with
      llLen := (List.range 288).map fun k => if k < 144 then 8 else if k < 256 then 9 else if k < 280 then 7 else 8
      dLen := (List.range 32).map fun _ => 5
      sub := .litlen } ∧
    WritesNothing s t) ∧
  codeLengthsOk false fixedLitlenLens = true ∧ codeLengthsOk false fixedDistLens = true

/-- The header of a dynamic block: the three counts, the limits, the code-length code in its transmission order and its
validity test (42_deflate.md R173, R174; 30_encoding.md R105). A stream that ends inside the counts: `StreamExhausted`. -/
def Obligations.DynamicHeader : Prop :=
  ∀ s hlit hdist ncl cl, s.zInside → s.bitPos + 14 ≤ 8 * s.zLen → hlit = s.zField s.bitPos 5 →
    hdist = s.zField (s.bitPos + 5) 5 → ncl = s.zField (s.bitPos + 10) 4 + 4 →
    cl = (List.range 19).map (fun sym =>
      let i := [16, 17, 18, 0, 8, 7, 9, 6, 10, 5, 11, 4, 12, 3, 13, 2, 14, 1, 15].idxOf sym
      if i < ncl then s.zField (s.bitPos + 14 + 3 * i) 3 else 0) →
    (286 < hlit + 257 ∨ 30 < hdist + 1 → ∃ t, exec .dynamic s = .next t ∧ ErrorTaken .stream s t) ∧
    (hlit + 257 ≤ 286 → hdist + 1 ≤ 30 → 8 * s.zLen < s.bitPos + 14 + 3 * ncl →
      ∃ t, exec .dynamic s = .next t ∧ ErrorTaken .trunc s t) ∧
    (hlit + 257 ≤ 286 → hdist + 1 ≤ 30 → s.bitPos + 14 + 3 * ncl ≤ 8 * s.zLen → codeLengthsOk true cl = false →
      ∃ t, exec .dynamic s = .next t ∧ ErrorTaken .stream s t) ∧
    (hlit + 257 ≤ 286 → hdist + 1 ≤ 30 → s.bitPos + 14 + 3 * ncl ≤ 8 * s.zLen → codeLengthsOk true cl = true →
      ∃ t, exec .dynamic s = .next t ∧
        t = { s with
          bitPos := s.bitPos + 14 + 3 * ncl, nlen := hlit + 257, ndist := hdist + 1, clLen := cl, lens := []
          sub := .codeLens } ∧
        WritesNothing s t)

/-- The code-length symbols: what each appends to the one sequence of code lengths, before it is complete; where a repeat
has nothing to repeat or runs past the end (30_encoding.md R104, 42_deflate.md R175). -/
def Obligations.CodeLengthSymbols : Prop :=
  (∀ i v r k s, s.clAppends i = some (v, r, k) → s.lens.length < s.nlen + s.ndist →
    (0 < k → s.zInside ∧ s.bitPos + k ≤ 8 * s.zLen) →
    (s.nlen + s.ndist < s.lens.length + r → ∃ t, exec i s = .next t ∧ ErrorTaken .stream s t) ∧
    (s.lens.length + r < s.nlen + s.ndist →
      ∃ t, exec i s = .next t ∧
        t = { s with bitPos := s.bitPos + k, lens := s.lens ++ List.replicate r v } ∧ WritesNothing s t)) ∧
  ∀ s, s.lens = [] → ∃ t, exec .cl16 s = .next t ∧ ErrorTaken .stream s t

/-- The symbol that completes the sequence of code lengths builds the two tables: symbol 256 must have a code, and both
sets of lengths must be valid (42_deflate.md R176). -/
def Obligations.TablesBuilt : Prop :=
  ∀ i v r k s full ll d, s.clAppends i = some (v, r, k) → (0 < k → s.zInside ∧ s.bitPos + k ≤ 8 * s.zLen) →
    s.lens.length + r = s.nlen + s.ndist → full = s.lens ++ List.replicate r v →
    ll = full.take s.nlen ++ List.replicate (288 - s.nlen) 0 →
    d = full.drop s.nlen ++ List.replicate (32 - s.ndist) 0 →
    (full.getD 256 0 = 0 ∨ codeLengthsOk false ll = false ∨ codeLengthsOk false d = false →
      ∃ t, exec i s = .next t ∧ ErrorTaken .stream s t) ∧
    (full.getD 256 0 ≠ 0 → codeLengthsOk false ll = true → codeLengthsOk false d = true →
      ∃ t, exec i s = .next t ∧
        t = { s with bitPos := s.bitPos + k, lens := full, llLen := ll, dLen := d, sub := .litlen } ∧
        WritesNothing s t)

/-! ## REPACK -/

/-- Format 1: every raw byte becomes two output bytes, low nibble first, each nibble replicated (43_pixel_formats.md
R213, 40_host_interface.md R128). -/
def Obligations.RepackBgra4444 : Prop :=
  ∀ s, s.phase = .repack → s.n = s.w * s.h * 2 → s.n ≤ s.cfg.rawCap → s.w * s.h * 4 ≤ s.cfg.outCap →
    ∃ t, exec .bgra4444 s = .next t ∧
      (∀ i < s.n,
        t.byteAt .out (2 * i) = nibble (s.rawAt i % 16) ∧ t.byteAt .out (2 * i + 1) = nibble (s.rawAt i / 16)) ∧
      Finished 0 (s.w * s.h * 4) s t

/-- Formats 2 and 513: the raw bytes are copied; format 513 leaves 2 bytes per pixel and `OUT_FMT = 1`
(43_pixel_formats.md R214, R216; 40_host_interface.md R128). -/
def Obligations.RepackCopies : Prop :=
  (∀ s, s.phase = .repack → s.n = s.w * s.h * 4 → s.n ≤ s.cfg.rawCap → s.n ≤ s.cfg.outCap →
    ∃ t, exec .bgra8888 s = .next t ∧ (∀ i < s.n, t.byteAt .out i = s.byteAt .raw i) ∧ Finished 0 s.n s t) ∧
  ∀ s, s.phase = .repack → s.n = s.w * s.h * 2 → s.n ≤ s.cfg.rawCap → s.n ≤ s.cfg.outCap →
    ∃ t, exec .rgb565 s = .next t ∧ (∀ i < s.n, t.byteAt .out i = s.byteAt .raw i) ∧ Finished 1 s.n s t

/-- Format 3: every pixel has the colour of its 4x4 tile (43_pixel_formats.md R215, R222). -/
def Obligations.RepackTile4444 : Prop :=
  ∀ s, s.phase = .repack → 2 * ((s.w + 3) / 4) * ((s.h + 3) / 4) ≤ s.cfg.rawCap → s.w * s.h * 4 ≤ s.cfg.outCap →
    ∃ t, exec .tile4444 s = .next t ∧
      (∀ x y tile, x < s.w → y < s.h → tile = x / 4 + y / 4 * ((s.w + 3) / 4) →
        t.pixel x y =
          [nibble (s.rawAt (2 * tile) % 16), nibble (s.rawAt (2 * tile) / 16), nibble (s.rawAt (2 * tile + 1) % 16),
            nibble (s.rawAt (2 * tile + 1) / 16)]) ∧
      Finished 0 (s.w * s.h * 4) s t

/-- Format 517: every bit, most significant first, becomes 16 white or black pixels (43_pixel_formats.md R217). -/
def Obligations.RepackGray1x16 : Prop :=
  ∀ s, s.phase = .repack → 128 * s.n = s.w * s.h → s.n ≤ s.cfg.rawCap → s.w * s.h * 4 ≤ s.cfg.outCap →
    ∃ t, exec .gray1x16 s = .next t ∧
      (∀ p < s.w * s.h,
        (∀ c < 3, t.byteAt .out (4 * p + c) =
          if s.rawAt (p / 128) / 2 ^ (7 - p / 16 % 8) % 2 = 1 then 255 else 0) ∧
        t.byteAt .out (4 * p + 3) = 255) ∧
      Finished 0 (s.w * s.h * 4) s t

/-- Format 1026: every pixel has the colour and the alpha that its 16-byte block gives it (43_pixel_formats.md R218;
44_dxt.md R241, R242, R246, R247, R251). -/
def Obligations.RepackDxt3 : Prop :=
  ∀ s, s.phase = .repack → s.TablesFit → 16 * ((s.w + 3) / 4) * ((s.h + 3) / 4) ≤ s.cfg.rawCap →
    s.w * s.h * 4 ≤ s.cfg.outCap →
    ∃ t, exec .dxt3 s = .next t ∧
      (∀ x y off k c, x < s.w → y < s.h → off = 16 * (x / 4 + y / 4 * ((s.w + 3) / 4)) → k = 4 * (y % 4) + x % 4 →
        (colourTable (s.rawAt (off + 8) + 256 * s.rawAt (off + 9)) (s.rawAt (off + 10) + 256 * s.rawAt (off + 11)))[
          s.rawAt (off + 12 + k / 4) / 4 ^ (k % 4) % 4]? = some c →
        t.pixel x y =
          [c.b, c.g, c.r,
            nibble (if k % 2 = 0 then s.rawAt (off + k / 2) % 16 else s.rawAt (off + k / 2) / 16)]) ∧
      Finished 0 (s.w * s.h * 4) s t

/-- Format 2050: the same with the interpolated alpha table and its 3-bit indices (43_pixel_formats.md R219; 44_dxt.md
R241, R242, R246, R250, R251). -/
def Obligations.RepackDxt5 : Prop :=
  ∀ s, s.phase = .repack → s.TablesFit → 16 * ((s.w + 3) / 4) * ((s.h + 3) / 4) ≤ s.cfg.rawCap →
    s.w * s.h * 4 ≤ s.cfg.outCap →
    ∃ t, exec .dxt5 s = .next t ∧
      (∀ x y off k c, x < s.w → y < s.h → off = 16 * (x / 4 + y / 4 * ((s.w + 3) / 4)) → k = 4 * (y % 4) + x % 4 →
        (colourTable (s.rawAt (off + 8) + 256 * s.rawAt (off + 9)) (s.rawAt (off + 10) + 256 * s.rawAt (off + 11)))[
          s.rawAt (off + 12 + k / 4) / 4 ^ (k % 4) % 4]? = some c →
        t.pixel x y =
          [c.b, c.g, c.r,
            alphaEntry (s.byteAt .raw off) (s.byteAt .raw (off + 1))
              ((s.rawAt (off + 2 + 3 * (k / 8)) + 256 * s.rawAt (off + 3 + 3 * (k / 8)) +
                65536 * s.rawAt (off + 4 + 3 * (k / 8))) / 8 ^ (k % 8) % 8)]) ∧
      Finished 0 (s.w * s.h * 4) s t

/-- `expand565`: each channel's top bits fill its vacated low bits (44_dxt.md R243, 30_encoding.md R111). -/
def Obligations.ColourExpansion : Prop :=
  ∀ v < 65536,
    (expand565 v).r.toNat = v / 2048 * 8 + v / 2048 / 4 ∧
      (expand565 v).g.toNat = v / 32 % 64 * 4 + v / 32 % 64 / 16 ∧
      (expand565 v).b.toNat = v % 32 * 8 + v % 32 / 4

/-- The colour table: the expanded endpoints and the two rounded blends, in that order, without wrap-around and whatever
the order of the endpoints; equal endpoints give one colour (44_dxt.md R244, R245). -/
def Obligations.ColourTable : Prop :=
  ∀ c0 c1, ∃ e2 e3, colourTable c0 c1 = [expand565 c0, expand565 c1, e2, e3] ∧
    (e2.r.toNat = (2 * (expand565 c0).r.toNat + (expand565 c1).r.toNat + 1) / 3 ∧
      e2.g.toNat = (2 * (expand565 c0).g.toNat + (expand565 c1).g.toNat + 1) / 3 ∧
      e2.b.toNat = (2 * (expand565 c0).b.toNat + (expand565 c1).b.toNat + 1) / 3) ∧
    (e3.r.toNat = ((expand565 c0).r.toNat + 2 * (expand565 c1).r.toNat + 1) / 3 ∧
      e3.g.toNat = ((expand565 c0).g.toNat + 2 * (expand565 c1).g.toNat + 1) / 3 ∧
      e3.b.toNat = ((expand565 c0).b.toNat + 2 * (expand565 c1).b.toNat + 1) / 3) ∧
    (c0 = c1 → e2 = expand565 c0 ∧ e3 = expand565 c0)

/-- The DXT5 alpha table in its two cases, without wrap-around; equal endpoints give one alpha in entries 0 to 5
(44_dxt.md R248, R249). -/
def Obligations.AlphaTable : Prop :=
  ∀ a0 a1 : Byte,
    alphaEntry a0 a1 0 = a0 ∧ alphaEntry a0 a1 1 = a1 ∧
    (a1.toNat < a0.toNat → ∀ i, 2 ≤ i → i ≤ 7 →
      (alphaEntry a0 a1 i).toNat = ((8 - i) * a0.toNat + (i - 1) * a1.toNat + 3) / 7) ∧
    (a0.toNat ≤ a1.toNat →
      (∀ i, 2 ≤ i → i ≤ 5 → (alphaEntry a0 a1 i).toNat = ((6 - i) * a0.toNat + (i - 1) * a1.toNat + 2) / 5) ∧
      alphaEntry a0 a1 6 = 0 ∧ alphaEntry a0 a1 7 = 255) ∧
    (a0 = a1 → ∀ i < 6, alphaEntry a0 a1 i = a0)

/-- REPACK always ends in DONE, and it has then written exactly the bytes `OUT[0..OUT_LEN)`: none is left over from
before, and none beyond is written (43_pixel_formats.md R221, 40_host_interface.md R128). -/
def Obligations.RepackWritesOut : Prop :=
  ∀ s, s.Inv → s.engineTurn = true → s.phase = .repack →
    ∃ t, step s = .next t ∧ t.phase = .done ∧ ∀ a, ((t.mem .out).get? a).isSome = true ↔ a < t.outLen.toNat

/-! ## The machine as a whole -/

/-- The state after reset is well formed, for every configuration that meets 00_scope.md R6. -/
def Obligations.ResetInv : Prop :=
  (∀ c : Config, c.wf → (State.resetWith c).Inv) ∧ Config.standard.wf ∧ State.reset.Inv

/-- Every step keeps a state well formed: the buffers in canonical form and inside their capacities, `STATUS`, `ERR` and
the result registers right for the phase, the cursors in their bounds, the tables of their sizes (10_state.md R22, R23,
R27 to R29, R33, R34, R36, R37; 41_framing.md R146). -/
def Obligations.StepKeepsInv : Prop :=
  ∀ s t, s.Inv → step s = .next t → t.Inv

/-- The engine never faults, never refuses, never gets stuck, whatever the host wrote (00_scope.md R10, R16). -/
def Obligations.EngineTurnCompletes : Prop :=
  ∀ s, s.Inv → s.engineTurn = true → ∃ t, step s = .next t ∧ (s.phase, t.phase) ∈ engineArrows

/-- A step that does not complete is a host move that does not exist: an address outside a buffer, a register number
above 9, a write to a read-only register (00_scope.md R16, R17; 93_implementation_defined.md U7; log 13, log 14). -/
def Obligations.StopsOnlyOnHostMisuse : Prop :=
  ∀ s, s.Inv → (∀ t, step s ≠ .next t) →
    ∃ m rest, s.hostTurn m rest ∧
      ((∃ a v, m = .writeIn a v ∧ s.cfg.inCap ≤ a ∧ step s = .fault (.addressOutside .inB a)) ∨
        (∃ a v, m = .writeKey a v ∧ s.cfg.keyLen ≤ a ∧ step s = .fault (.addressOutside .key a)) ∨
        (∃ a, m = .readOut a ∧ s.cfg.outCap ≤ a ∧ step s = .fault (.addressOutside .out a)) ∨
        (∃ r, m = .readReg r ∧ 9 < r ∧ step s = .fault (.registerOutside r)) ∨
        (∃ r v, m = .writeReg r v ∧ 9 < r ∧ step s = .fault (.registerOutside r)) ∨
        ∃ r v, m = .writeReg r v ∧ r ∈ [1, 2, 8, 9] ∧ step s = .refused (.readOnlyRegister r))

/-- Every decode ends: from the start of FETCH, with no host move pending, DONE or ERROR is reached within a number of
steps that the input size alone bounds (70_reset_and_hazards.md R330, 42_deflate.md R185). What is one step is the
model's choice (log 1), and with it the bound. -/
def Obligations.DecodeEnds : Prop :=
  ∀ s, s.Inv → s.phase = .fetch → s.host = [] →
    ∃ k t, k ≤ 9 * s.inLen.toNat + 10 ∧ stepsTo k s t ∧ t.ended ∧ (t.phase = .done ∨ t.phase = .error)

/-- The engine writes neither `IN` nor `KEY` nor the descriptor, and, while a decode goes on, no byte of `RB` outside
STRIP (20_memory.md R74). -/
def Obligations.EngineKeepsInputs : Prop :=
  ∀ s t, s.Inv → s.engineTurn = true → step s = .next t →
    InputsKept s t ∧ (∀ a, t.byteAt .inB a = s.byteAt .inB a ∧ t.byteAt .key a = s.byteAt .key a) ∧
      (s.phase ≠ .strip → t.phase.running = true → ∀ a, t.byteAt .rb a = s.byteAt .rb a)

/-- Outside STRIP the engine does not read the key: with other key bytes the same step leads to the same state but for
those bytes (41_framing.md R144, R145; 70_reset_and_hazards.md R322). -/
def Obligations.KeyUnreadOutsideStrip : Prop :=
  ∀ s t k, s.engineTurn = true → s.phase ≠ .strip → step s = .next t →
    step { s with keyBuf := k } = .next { t with keyBuf := k }
end

