-- ==== Sys2Proof/Laws/State.lean ====
section
/-! SUPPORT. Each named update of State, field by field. -/

namespace Sys2Proof.Machine

/-! ## `State.forget` (93_implementation_defined.md U2) -/

@[simp] theorem forget_cfg (s : State) : (s.forget).cfg = s.cfg := rfl
@[simp] theorem forget_status (s : State) : (s.forget).status = s.status := rfl
@[simp] theorem forget_err (s : State) : (s.forget).err = s.err := rfl
@[simp] theorem forget_width (s : State) : (s.forget).width = s.width := rfl
@[simp] theorem forget_height (s : State) : (s.forget).height = s.height := rfl
@[simp] theorem forget_fmtPri (s : State) : (s.forget).fmtPri = s.fmtPri := rfl
@[simp] theorem forget_fmtSec (s : State) : (s.forget).fmtSec = s.fmtSec := rfl
@[simp] theorem forget_inLen (s : State) : (s.forget).inLen = s.inLen := rfl
@[simp] theorem forget_outLen (s : State) : (s.forget).outLen = s.outLen := rfl
@[simp] theorem forget_outFmt (s : State) : (s.forget).outFmt = s.outFmt := rfl
@[simp] theorem forget_inBuf (s : State) : (s.forget).inBuf = s.inBuf := rfl
@[simp] theorem forget_keyBuf (s : State) : (s.forget).keyBuf = s.keyBuf := rfl
@[simp] theorem forget_rb (s : State) : (s.forget).rb = [] := rfl
@[simp] theorem forget_raw (s : State) : (s.forget).raw = [] := rfl
@[simp] theorem forget_out (s : State) : (s.forget).out = [] := rfl
@[simp] theorem forget_phase (s : State) : (s.forget).phase = s.phase := rfl
@[simp] theorem forget_p (s : State) : (s.forget).p = s.p := rfl
@[simp] theorem forget_fmt (s : State) : (s.forget).fmt = s.fmt := rfl
@[simp] theorem forget_n (s : State) : (s.forget).n = s.n := rfl
@[simp] theorem forget_inPos (s : State) : (s.forget).inPos = s.inPos := rfl
@[simp] theorem forget_rbLen (s : State) : (s.forget).rbLen = s.rbLen := rfl
@[simp] theorem forget_zLen (s : State) : (s.forget).zLen = s.zLen := rfl
@[simp] theorem forget_bitPos (s : State) : (s.forget).bitPos = s.bitPos := rfl
@[simp] theorem forget_rawPos (s : State) : (s.forget).rawPos = s.rawPos := rfl
@[simp] theorem forget_bfinal (s : State) : (s.forget).bfinal = s.bfinal := rfl
@[simp] theorem forget_btype (s : State) : (s.forget).btype = s.btype := rfl
@[simp] theorem forget_llLen (s : State) : (s.forget).llLen = s.llLen := rfl
@[simp] theorem forget_dLen (s : State) : (s.forget).dLen = s.dLen := rfl
@[simp] theorem forget_clLen (s : State) : (s.forget).clLen = s.clLen := rfl
@[simp] theorem forget_ct (s : State) : (s.forget).ct = s.ct := rfl
@[simp] theorem forget_cidx (s : State) : (s.forget).cidx = s.cidx := rfl
@[simp] theorem forget_alphaTab (s : State) : (s.forget).alphaTab = s.alphaTab := rfl
@[simp] theorem forget_aidx (s : State) : (s.forget).aidx = s.aidx := rfl
@[simp] theorem forget_sub (s : State) : (s.forget).sub = s.sub := rfl
@[simp] theorem forget_nlen (s : State) : (s.forget).nlen = s.nlen := rfl
@[simp] theorem forget_ndist (s : State) : (s.forget).ndist = s.ndist := rfl
@[simp] theorem forget_lens (s : State) : (s.forget).lens = s.lens := rfl
@[simp] theorem forget_matchLen (s : State) : (s.forget).matchLen = s.matchLen := rfl
@[simp] theorem forget_host (s : State) : (s.forget).host = s.host := rfl
@[simp] theorem forget_rdata (s : State) : (s.forget).rdata = s.rdata := rfl
@[simp] theorem forget_resets (s : State) : (s.forget).resets = s.resets := rfl
@[simp] theorem forget_forgets (s : State) : (s.forget).forgets = s.forgets + 1 := rfl

/-! ## `State.forgetScratch` (93_implementation_defined.md U2) -/

@[simp] theorem forgetScratch_cfg (s : State) : (s.forgetScratch).cfg = s.cfg := rfl
@[simp] theorem forgetScratch_status (s : State) : (s.forgetScratch).status = s.status := rfl
@[simp] theorem forgetScratch_err (s : State) : (s.forgetScratch).err = s.err := rfl
@[simp] theorem forgetScratch_width (s : State) : (s.forgetScratch).width = s.width := rfl
@[simp] theorem forgetScratch_height (s : State) : (s.forgetScratch).height = s.height := rfl
@[simp] theorem forgetScratch_fmtPri (s : State) : (s.forgetScratch).fmtPri = s.fmtPri := rfl
@[simp] theorem forgetScratch_fmtSec (s : State) : (s.forgetScratch).fmtSec = s.fmtSec := rfl
@[simp] theorem forgetScratch_inLen (s : State) : (s.forgetScratch).inLen = s.inLen := rfl
@[simp] theorem forgetScratch_outLen (s : State) : (s.forgetScratch).outLen = s.outLen := rfl
@[simp] theorem forgetScratch_outFmt (s : State) : (s.forgetScratch).outFmt = s.outFmt := rfl
@[simp] theorem forgetScratch_inBuf (s : State) : (s.forgetScratch).inBuf = s.inBuf := rfl
@[simp] theorem forgetScratch_keyBuf (s : State) : (s.forgetScratch).keyBuf = s.keyBuf := rfl
@[simp] theorem forgetScratch_rb (s : State) : (s.forgetScratch).rb = [] := rfl
@[simp] theorem forgetScratch_raw (s : State) : (s.forgetScratch).raw = [] := rfl
@[simp] theorem forgetScratch_out (s : State) : (s.forgetScratch).out = s.out := rfl
@[simp] theorem forgetScratch_phase (s : State) : (s.forgetScratch).phase = s.phase := rfl
@[simp] theorem forgetScratch_p (s : State) : (s.forgetScratch).p = s.p := rfl
@[simp] theorem forgetScratch_fmt (s : State) : (s.forgetScratch).fmt = s.fmt := rfl
@[simp] theorem forgetScratch_n (s : State) : (s.forgetScratch).n = s.n := rfl
@[simp] theorem forgetScratch_inPos (s : State) : (s.forgetScratch).inPos = s.inPos := rfl
@[simp] theorem forgetScratch_rbLen (s : State) : (s.forgetScratch).rbLen = s.rbLen := rfl
@[simp] theorem forgetScratch_zLen (s : State) : (s.forgetScratch).zLen = s.zLen := rfl
@[simp] theorem forgetScratch_bitPos (s : State) : (s.forgetScratch).bitPos = s.bitPos := rfl
@[simp] theorem forgetScratch_rawPos (s : State) : (s.forgetScratch).rawPos = s.rawPos := rfl
@[simp] theorem forgetScratch_bfinal (s : State) : (s.forgetScratch).bfinal = s.bfinal := rfl
@[simp] theorem forgetScratch_btype (s : State) : (s.forgetScratch).btype = s.btype := rfl
@[simp] theorem forgetScratch_llLen (s : State) : (s.forgetScratch).llLen = s.llLen := rfl
@[simp] theorem forgetScratch_dLen (s : State) : (s.forgetScratch).dLen = s.dLen := rfl
@[simp] theorem forgetScratch_clLen (s : State) : (s.forgetScratch).clLen = s.clLen := rfl
@[simp] theorem forgetScratch_ct (s : State) : (s.forgetScratch).ct = s.ct := rfl
@[simp] theorem forgetScratch_cidx (s : State) : (s.forgetScratch).cidx = s.cidx := rfl
@[simp] theorem forgetScratch_alphaTab (s : State) : (s.forgetScratch).alphaTab = s.alphaTab := rfl
@[simp] theorem forgetScratch_aidx (s : State) : (s.forgetScratch).aidx = s.aidx := rfl
@[simp] theorem forgetScratch_sub (s : State) : (s.forgetScratch).sub = s.sub := rfl
@[simp] theorem forgetScratch_nlen (s : State) : (s.forgetScratch).nlen = s.nlen := rfl
@[simp] theorem forgetScratch_ndist (s : State) : (s.forgetScratch).ndist = s.ndist := rfl
@[simp] theorem forgetScratch_lens (s : State) : (s.forgetScratch).lens = s.lens := rfl
@[simp] theorem forgetScratch_matchLen (s : State) : (s.forgetScratch).matchLen = s.matchLen := rfl
@[simp] theorem forgetScratch_host (s : State) : (s.forgetScratch).host = s.host := rfl
@[simp] theorem forgetScratch_rdata (s : State) : (s.forgetScratch).rdata = s.rdata := rfl
@[simp] theorem forgetScratch_resets (s : State) : (s.forgetScratch).resets = s.resets := rfl
@[simp] theorem forgetScratch_forgets (s : State) : (s.forgetScratch).forgets = s.forgets + 1 := rfl

/-! ## `takeError` (60_exceptions.md R290) -/

@[simp] theorem takeError_cfg (e : ErrCode) (s : State) : (takeError e s).cfg = s.cfg := rfl
@[simp] theorem takeError_status (e : ErrCode) (s : State) : (takeError e s).status = statusError ||| s.obfPart := rfl
@[simp] theorem takeError_err (e : ErrCode) (s : State) : (takeError e s).err = e.code := rfl
@[simp] theorem takeError_width (e : ErrCode) (s : State) : (takeError e s).width = s.width := rfl
@[simp] theorem takeError_height (e : ErrCode) (s : State) : (takeError e s).height = s.height := rfl
@[simp] theorem takeError_fmtPri (e : ErrCode) (s : State) : (takeError e s).fmtPri = s.fmtPri := rfl
@[simp] theorem takeError_fmtSec (e : ErrCode) (s : State) : (takeError e s).fmtSec = s.fmtSec := rfl
@[simp] theorem takeError_inLen (e : ErrCode) (s : State) : (takeError e s).inLen = s.inLen := rfl
@[simp] theorem takeError_outLen (e : ErrCode) (s : State) : (takeError e s).outLen = 0 := rfl
@[simp] theorem takeError_outFmt (e : ErrCode) (s : State) : (takeError e s).outFmt = 0 := rfl
@[simp] theorem takeError_inBuf (e : ErrCode) (s : State) : (takeError e s).inBuf = s.inBuf := rfl
@[simp] theorem takeError_keyBuf (e : ErrCode) (s : State) : (takeError e s).keyBuf = s.keyBuf := rfl
@[simp] theorem takeError_rb (e : ErrCode) (s : State) : (takeError e s).rb = [] := rfl
@[simp] theorem takeError_raw (e : ErrCode) (s : State) : (takeError e s).raw = [] := rfl
@[simp] theorem takeError_out (e : ErrCode) (s : State) : (takeError e s).out = [] := rfl
@[simp] theorem takeError_phase (e : ErrCode) (s : State) : (takeError e s).phase = .error := rfl
@[simp] theorem takeError_p (e : ErrCode) (s : State) : (takeError e s).p = s.p := rfl
@[simp] theorem takeError_fmt (e : ErrCode) (s : State) : (takeError e s).fmt = s.fmt := rfl
@[simp] theorem takeError_n (e : ErrCode) (s : State) : (takeError e s).n = s.n := rfl
@[simp] theorem takeError_inPos (e : ErrCode) (s : State) : (takeError e s).inPos = s.inPos := rfl
@[simp] theorem takeError_rbLen (e : ErrCode) (s : State) : (takeError e s).rbLen = s.rbLen := rfl
@[simp] theorem takeError_zLen (e : ErrCode) (s : State) : (takeError e s).zLen = s.zLen := rfl
@[simp] theorem takeError_bitPos (e : ErrCode) (s : State) : (takeError e s).bitPos = s.bitPos := rfl
@[simp] theorem takeError_rawPos (e : ErrCode) (s : State) : (takeError e s).rawPos = s.rawPos := rfl
@[simp] theorem takeError_bfinal (e : ErrCode) (s : State) : (takeError e s).bfinal = s.bfinal := rfl
@[simp] theorem takeError_btype (e : ErrCode) (s : State) : (takeError e s).btype = s.btype := rfl
@[simp] theorem takeError_llLen (e : ErrCode) (s : State) : (takeError e s).llLen = s.llLen := rfl
@[simp] theorem takeError_dLen (e : ErrCode) (s : State) : (takeError e s).dLen = s.dLen := rfl
@[simp] theorem takeError_clLen (e : ErrCode) (s : State) : (takeError e s).clLen = s.clLen := rfl
@[simp] theorem takeError_ct (e : ErrCode) (s : State) : (takeError e s).ct = s.ct := rfl
@[simp] theorem takeError_cidx (e : ErrCode) (s : State) : (takeError e s).cidx = s.cidx := rfl
@[simp] theorem takeError_alphaTab (e : ErrCode) (s : State) : (takeError e s).alphaTab = s.alphaTab := rfl
@[simp] theorem takeError_aidx (e : ErrCode) (s : State) : (takeError e s).aidx = s.aidx := rfl
@[simp] theorem takeError_sub (e : ErrCode) (s : State) : (takeError e s).sub = s.sub := rfl
@[simp] theorem takeError_nlen (e : ErrCode) (s : State) : (takeError e s).nlen = s.nlen := rfl
@[simp] theorem takeError_ndist (e : ErrCode) (s : State) : (takeError e s).ndist = s.ndist := rfl
@[simp] theorem takeError_lens (e : ErrCode) (s : State) : (takeError e s).lens = s.lens := rfl
@[simp] theorem takeError_matchLen (e : ErrCode) (s : State) : (takeError e s).matchLen = s.matchLen := rfl
@[simp] theorem takeError_host (e : ErrCode) (s : State) : (takeError e s).host = s.host := rfl
@[simp] theorem takeError_rdata (e : ErrCode) (s : State) : (takeError e s).rdata = s.rdata := rfl
@[simp] theorem takeError_resets (e : ErrCode) (s : State) : (takeError e s).resets = s.resets := rfl
@[simp] theorem takeError_forgets (e : ErrCode) (s : State) : (takeError e s).forgets = s.forgets + 1 := rfl

/-! ## `clearRegs` (40_host_interface.md R122) -/

@[simp] theorem clearRegs_cfg (s : State) : (clearRegs s).cfg = s.cfg := rfl
@[simp] theorem clearRegs_status (s : State) : (clearRegs s).status = 0 := rfl
@[simp] theorem clearRegs_err (s : State) : (clearRegs s).err = 0 := rfl
@[simp] theorem clearRegs_width (s : State) : (clearRegs s).width = s.width := rfl
@[simp] theorem clearRegs_height (s : State) : (clearRegs s).height = s.height := rfl
@[simp] theorem clearRegs_fmtPri (s : State) : (clearRegs s).fmtPri = s.fmtPri := rfl
@[simp] theorem clearRegs_fmtSec (s : State) : (clearRegs s).fmtSec = s.fmtSec := rfl
@[simp] theorem clearRegs_inLen (s : State) : (clearRegs s).inLen = s.inLen := rfl
@[simp] theorem clearRegs_outLen (s : State) : (clearRegs s).outLen = 0 := rfl
@[simp] theorem clearRegs_outFmt (s : State) : (clearRegs s).outFmt = 0 := rfl
@[simp] theorem clearRegs_inBuf (s : State) : (clearRegs s).inBuf = s.inBuf := rfl
@[simp] theorem clearRegs_keyBuf (s : State) : (clearRegs s).keyBuf = s.keyBuf := rfl
@[simp] theorem clearRegs_rb (s : State) : (clearRegs s).rb = s.rb := rfl
@[simp] theorem clearRegs_raw (s : State) : (clearRegs s).raw = s.raw := rfl
@[simp] theorem clearRegs_out (s : State) : (clearRegs s).out = s.out := rfl
@[simp] theorem clearRegs_phase (s : State) : (clearRegs s).phase = .idle := rfl
@[simp] theorem clearRegs_p (s : State) : (clearRegs s).p = s.p := rfl
@[simp] theorem clearRegs_fmt (s : State) : (clearRegs s).fmt = s.fmt := rfl
@[simp] theorem clearRegs_n (s : State) : (clearRegs s).n = s.n := rfl
@[simp] theorem clearRegs_inPos (s : State) : (clearRegs s).inPos = s.inPos := rfl
@[simp] theorem clearRegs_rbLen (s : State) : (clearRegs s).rbLen = s.rbLen := rfl
@[simp] theorem clearRegs_zLen (s : State) : (clearRegs s).zLen = s.zLen := rfl
@[simp] theorem clearRegs_bitPos (s : State) : (clearRegs s).bitPos = s.bitPos := rfl
@[simp] theorem clearRegs_rawPos (s : State) : (clearRegs s).rawPos = s.rawPos := rfl
@[simp] theorem clearRegs_bfinal (s : State) : (clearRegs s).bfinal = s.bfinal := rfl
@[simp] theorem clearRegs_btype (s : State) : (clearRegs s).btype = s.btype := rfl
@[simp] theorem clearRegs_llLen (s : State) : (clearRegs s).llLen = s.llLen := rfl
@[simp] theorem clearRegs_dLen (s : State) : (clearRegs s).dLen = s.dLen := rfl
@[simp] theorem clearRegs_clLen (s : State) : (clearRegs s).clLen = s.clLen := rfl
@[simp] theorem clearRegs_ct (s : State) : (clearRegs s).ct = s.ct := rfl
@[simp] theorem clearRegs_cidx (s : State) : (clearRegs s).cidx = s.cidx := rfl
@[simp] theorem clearRegs_alphaTab (s : State) : (clearRegs s).alphaTab = s.alphaTab := rfl
@[simp] theorem clearRegs_aidx (s : State) : (clearRegs s).aidx = s.aidx := rfl
@[simp] theorem clearRegs_sub (s : State) : (clearRegs s).sub = s.sub := rfl
@[simp] theorem clearRegs_nlen (s : State) : (clearRegs s).nlen = s.nlen := rfl
@[simp] theorem clearRegs_ndist (s : State) : (clearRegs s).ndist = s.ndist := rfl
@[simp] theorem clearRegs_lens (s : State) : (clearRegs s).lens = s.lens := rfl
@[simp] theorem clearRegs_matchLen (s : State) : (clearRegs s).matchLen = s.matchLen := rfl
@[simp] theorem clearRegs_host (s : State) : (clearRegs s).host = s.host := rfl
@[simp] theorem clearRegs_rdata (s : State) : (clearRegs s).rdata = s.rdata := rfl
@[simp] theorem clearRegs_resets (s : State) : (clearRegs s).resets = s.resets := rfl
@[simp] theorem clearRegs_forgets (s : State) : (clearRegs s).forgets = s.forgets := rfl

/-! ## `beginDecode` (40_host_interface.md R121) -/

@[simp] theorem beginDecode_cfg (s : State) : (beginDecode s).cfg = s.cfg := rfl
@[simp] theorem beginDecode_status (s : State) : (beginDecode s).status = statusBusy := rfl
@[simp] theorem beginDecode_err (s : State) : (beginDecode s).err = 0 := rfl
@[simp] theorem beginDecode_width (s : State) : (beginDecode s).width = s.width := rfl
@[simp] theorem beginDecode_height (s : State) : (beginDecode s).height = s.height := rfl
@[simp] theorem beginDecode_fmtPri (s : State) : (beginDecode s).fmtPri = s.fmtPri := rfl
@[simp] theorem beginDecode_fmtSec (s : State) : (beginDecode s).fmtSec = s.fmtSec := rfl
@[simp] theorem beginDecode_inLen (s : State) : (beginDecode s).inLen = s.inLen := rfl
@[simp] theorem beginDecode_outLen (s : State) : (beginDecode s).outLen = 0 := rfl
@[simp] theorem beginDecode_outFmt (s : State) : (beginDecode s).outFmt = 0 := rfl
@[simp] theorem beginDecode_inBuf (s : State) : (beginDecode s).inBuf = s.inBuf := rfl
@[simp] theorem beginDecode_keyBuf (s : State) : (beginDecode s).keyBuf = s.keyBuf := rfl
@[simp] theorem beginDecode_rb (s : State) : (beginDecode s).rb = [] := rfl
@[simp] theorem beginDecode_raw (s : State) : (beginDecode s).raw = [] := rfl
@[simp] theorem beginDecode_out (s : State) : (beginDecode s).out = [] := rfl
@[simp] theorem beginDecode_phase (s : State) : (beginDecode s).phase = .fetch := rfl
@[simp] theorem beginDecode_p (s : State) : (beginDecode s).p = s.p := rfl
@[simp] theorem beginDecode_fmt (s : State) : (beginDecode s).fmt = s.fmt := rfl
@[simp] theorem beginDecode_n (s : State) : (beginDecode s).n = s.n := rfl
@[simp] theorem beginDecode_inPos (s : State) : (beginDecode s).inPos = s.inPos := rfl
@[simp] theorem beginDecode_rbLen (s : State) : (beginDecode s).rbLen = s.rbLen := rfl
@[simp] theorem beginDecode_zLen (s : State) : (beginDecode s).zLen = s.zLen := rfl
@[simp] theorem beginDecode_bitPos (s : State) : (beginDecode s).bitPos = s.bitPos := rfl
@[simp] theorem beginDecode_rawPos (s : State) : (beginDecode s).rawPos = s.rawPos := rfl
@[simp] theorem beginDecode_bfinal (s : State) : (beginDecode s).bfinal = s.bfinal := rfl
@[simp] theorem beginDecode_btype (s : State) : (beginDecode s).btype = s.btype := rfl
@[simp] theorem beginDecode_llLen (s : State) : (beginDecode s).llLen = s.llLen := rfl
@[simp] theorem beginDecode_dLen (s : State) : (beginDecode s).dLen = s.dLen := rfl
@[simp] theorem beginDecode_clLen (s : State) : (beginDecode s).clLen = s.clLen := rfl
@[simp] theorem beginDecode_ct (s : State) : (beginDecode s).ct = s.ct := rfl
@[simp] theorem beginDecode_cidx (s : State) : (beginDecode s).cidx = s.cidx := rfl
@[simp] theorem beginDecode_alphaTab (s : State) : (beginDecode s).alphaTab = s.alphaTab := rfl
@[simp] theorem beginDecode_aidx (s : State) : (beginDecode s).aidx = s.aidx := rfl
@[simp] theorem beginDecode_sub (s : State) : (beginDecode s).sub = s.sub := rfl
@[simp] theorem beginDecode_nlen (s : State) : (beginDecode s).nlen = s.nlen := rfl
@[simp] theorem beginDecode_ndist (s : State) : (beginDecode s).ndist = s.ndist := rfl
@[simp] theorem beginDecode_lens (s : State) : (beginDecode s).lens = s.lens := rfl
@[simp] theorem beginDecode_matchLen (s : State) : (beginDecode s).matchLen = s.matchLen := rfl
@[simp] theorem beginDecode_host (s : State) : (beginDecode s).host = s.host := rfl
@[simp] theorem beginDecode_rdata (s : State) : (beginDecode s).rdata = s.rdata := rfl
@[simp] theorem beginDecode_resets (s : State) : (beginDecode s).resets = s.resets := rfl
@[simp] theorem beginDecode_forgets (s : State) : (beginDecode s).forgets = s.forgets + 1 := rfl

/-! ## `finishDecode` (40_host_interface.md R128) -/

@[simp] theorem finishDecode_cfg (c z : Nat) (s : State) : (finishDecode c z s).cfg = s.cfg := rfl
@[simp] theorem finishDecode_status (c z : Nat) (s : State) : (finishDecode c z s).status = statusDone ||| s.obfPart := rfl
@[simp] theorem finishDecode_err (c z : Nat) (s : State) : (finishDecode c z s).err = s.err := rfl
@[simp] theorem finishDecode_width (c z : Nat) (s : State) : (finishDecode c z s).width = s.width := rfl
@[simp] theorem finishDecode_height (c z : Nat) (s : State) : (finishDecode c z s).height = s.height := rfl
@[simp] theorem finishDecode_fmtPri (c z : Nat) (s : State) : (finishDecode c z s).fmtPri = s.fmtPri := rfl
@[simp] theorem finishDecode_fmtSec (c z : Nat) (s : State) : (finishDecode c z s).fmtSec = s.fmtSec := rfl
@[simp] theorem finishDecode_inLen (c z : Nat) (s : State) : (finishDecode c z s).inLen = s.inLen := rfl
@[simp] theorem finishDecode_outLen (c z : Nat) (s : State) : (finishDecode c z s).outLen = BitVec.ofNat 32 z := rfl
@[simp] theorem finishDecode_outFmt (c z : Nat) (s : State) : (finishDecode c z s).outFmt = (if c = 513 then 1 else 0) := rfl
@[simp] theorem finishDecode_inBuf (c z : Nat) (s : State) : (finishDecode c z s).inBuf = s.inBuf := rfl
@[simp] theorem finishDecode_keyBuf (c z : Nat) (s : State) : (finishDecode c z s).keyBuf = s.keyBuf := rfl
@[simp] theorem finishDecode_rb (c z : Nat) (s : State) : (finishDecode c z s).rb = [] := rfl
@[simp] theorem finishDecode_raw (c z : Nat) (s : State) : (finishDecode c z s).raw = [] := rfl
@[simp] theorem finishDecode_out (c z : Nat) (s : State) : (finishDecode c z s).out = s.out := rfl
@[simp] theorem finishDecode_phase (c z : Nat) (s : State) : (finishDecode c z s).phase = .done := rfl
@[simp] theorem finishDecode_p (c z : Nat) (s : State) : (finishDecode c z s).p = s.p := rfl
@[simp] theorem finishDecode_fmt (c z : Nat) (s : State) : (finishDecode c z s).fmt = s.fmt := rfl
@[simp] theorem finishDecode_n (c z : Nat) (s : State) : (finishDecode c z s).n = s.n := rfl
@[simp] theorem finishDecode_inPos (c z : Nat) (s : State) : (finishDecode c z s).inPos = s.inPos := rfl
@[simp] theorem finishDecode_rbLen (c z : Nat) (s : State) : (finishDecode c z s).rbLen = s.rbLen := rfl
@[simp] theorem finishDecode_zLen (c z : Nat) (s : State) : (finishDecode c z s).zLen = s.zLen := rfl
@[simp] theorem finishDecode_bitPos (c z : Nat) (s : State) : (finishDecode c z s).bitPos = s.bitPos := rfl
@[simp] theorem finishDecode_rawPos (c z : Nat) (s : State) : (finishDecode c z s).rawPos = s.rawPos := rfl
@[simp] theorem finishDecode_bfinal (c z : Nat) (s : State) : (finishDecode c z s).bfinal = s.bfinal := rfl
@[simp] theorem finishDecode_btype (c z : Nat) (s : State) : (finishDecode c z s).btype = s.btype := rfl
@[simp] theorem finishDecode_llLen (c z : Nat) (s : State) : (finishDecode c z s).llLen = s.llLen := rfl
@[simp] theorem finishDecode_dLen (c z : Nat) (s : State) : (finishDecode c z s).dLen = s.dLen := rfl
@[simp] theorem finishDecode_clLen (c z : Nat) (s : State) : (finishDecode c z s).clLen = s.clLen := rfl
@[simp] theorem finishDecode_ct (c z : Nat) (s : State) : (finishDecode c z s).ct = s.ct := rfl
@[simp] theorem finishDecode_cidx (c z : Nat) (s : State) : (finishDecode c z s).cidx = s.cidx := rfl
@[simp] theorem finishDecode_alphaTab (c z : Nat) (s : State) : (finishDecode c z s).alphaTab = s.alphaTab := rfl
@[simp] theorem finishDecode_aidx (c z : Nat) (s : State) : (finishDecode c z s).aidx = s.aidx := rfl
@[simp] theorem finishDecode_sub (c z : Nat) (s : State) : (finishDecode c z s).sub = s.sub := rfl
@[simp] theorem finishDecode_nlen (c z : Nat) (s : State) : (finishDecode c z s).nlen = s.nlen := rfl
@[simp] theorem finishDecode_ndist (c z : Nat) (s : State) : (finishDecode c z s).ndist = s.ndist := rfl
@[simp] theorem finishDecode_lens (c z : Nat) (s : State) : (finishDecode c z s).lens = s.lens := rfl
@[simp] theorem finishDecode_matchLen (c z : Nat) (s : State) : (finishDecode c z s).matchLen = s.matchLen := rfl
@[simp] theorem finishDecode_host (c z : Nat) (s : State) : (finishDecode c z s).host = s.host := rfl
@[simp] theorem finishDecode_rdata (c z : Nat) (s : State) : (finishDecode c z s).rdata = s.rdata := rfl
@[simp] theorem finishDecode_resets (c z : Nat) (s : State) : (finishDecode c z s).resets = s.resets := rfl
@[simp] theorem finishDecode_forgets (c z : Nat) (s : State) : (finishDecode c z s).forgets = s.forgets + 1 := rfl

/-! ## `finishEmpty` (40_host_interface.md R125) -/

@[simp] theorem finishEmpty_cfg (s : State) : (finishEmpty s).cfg = s.cfg := rfl
@[simp] theorem finishEmpty_status (s : State) : (finishEmpty s).status = statusDone ||| statusEmpty := rfl
@[simp] theorem finishEmpty_err (s : State) : (finishEmpty s).err = s.err := rfl
@[simp] theorem finishEmpty_width (s : State) : (finishEmpty s).width = s.width := rfl
@[simp] theorem finishEmpty_height (s : State) : (finishEmpty s).height = s.height := rfl
@[simp] theorem finishEmpty_fmtPri (s : State) : (finishEmpty s).fmtPri = s.fmtPri := rfl
@[simp] theorem finishEmpty_fmtSec (s : State) : (finishEmpty s).fmtSec = s.fmtSec := rfl
@[simp] theorem finishEmpty_inLen (s : State) : (finishEmpty s).inLen = s.inLen := rfl
@[simp] theorem finishEmpty_outLen (s : State) : (finishEmpty s).outLen = 0 := rfl
@[simp] theorem finishEmpty_outFmt (s : State) : (finishEmpty s).outFmt = 0 := rfl
@[simp] theorem finishEmpty_inBuf (s : State) : (finishEmpty s).inBuf = s.inBuf := rfl
@[simp] theorem finishEmpty_keyBuf (s : State) : (finishEmpty s).keyBuf = s.keyBuf := rfl
@[simp] theorem finishEmpty_rb (s : State) : (finishEmpty s).rb = [] := rfl
@[simp] theorem finishEmpty_raw (s : State) : (finishEmpty s).raw = [] := rfl
@[simp] theorem finishEmpty_out (s : State) : (finishEmpty s).out = [] := rfl
@[simp] theorem finishEmpty_phase (s : State) : (finishEmpty s).phase = .done := rfl
@[simp] theorem finishEmpty_p (s : State) : (finishEmpty s).p = s.p := rfl
@[simp] theorem finishEmpty_fmt (s : State) : (finishEmpty s).fmt = s.fmt := rfl
@[simp] theorem finishEmpty_n (s : State) : (finishEmpty s).n = s.n := rfl
@[simp] theorem finishEmpty_inPos (s : State) : (finishEmpty s).inPos = s.inPos := rfl
@[simp] theorem finishEmpty_rbLen (s : State) : (finishEmpty s).rbLen = s.rbLen := rfl
@[simp] theorem finishEmpty_zLen (s : State) : (finishEmpty s).zLen = s.zLen := rfl
@[simp] theorem finishEmpty_bitPos (s : State) : (finishEmpty s).bitPos = s.bitPos := rfl
@[simp] theorem finishEmpty_rawPos (s : State) : (finishEmpty s).rawPos = s.rawPos := rfl
@[simp] theorem finishEmpty_bfinal (s : State) : (finishEmpty s).bfinal = s.bfinal := rfl
@[simp] theorem finishEmpty_btype (s : State) : (finishEmpty s).btype = s.btype := rfl
@[simp] theorem finishEmpty_llLen (s : State) : (finishEmpty s).llLen = s.llLen := rfl
@[simp] theorem finishEmpty_dLen (s : State) : (finishEmpty s).dLen = s.dLen := rfl
@[simp] theorem finishEmpty_clLen (s : State) : (finishEmpty s).clLen = s.clLen := rfl
@[simp] theorem finishEmpty_ct (s : State) : (finishEmpty s).ct = s.ct := rfl
@[simp] theorem finishEmpty_cidx (s : State) : (finishEmpty s).cidx = s.cidx := rfl
@[simp] theorem finishEmpty_alphaTab (s : State) : (finishEmpty s).alphaTab = s.alphaTab := rfl
@[simp] theorem finishEmpty_aidx (s : State) : (finishEmpty s).aidx = s.aidx := rfl
@[simp] theorem finishEmpty_sub (s : State) : (finishEmpty s).sub = s.sub := rfl
@[simp] theorem finishEmpty_nlen (s : State) : (finishEmpty s).nlen = s.nlen := rfl
@[simp] theorem finishEmpty_ndist (s : State) : (finishEmpty s).ndist = s.ndist := rfl
@[simp] theorem finishEmpty_lens (s : State) : (finishEmpty s).lens = s.lens := rfl
@[simp] theorem finishEmpty_matchLen (s : State) : (finishEmpty s).matchLen = s.matchLen := rfl
@[simp] theorem finishEmpty_host (s : State) : (finishEmpty s).host = s.host := rfl
@[simp] theorem finishEmpty_rdata (s : State) : (finishEmpty s).rdata = s.rdata := rfl
@[simp] theorem finishEmpty_resets (s : State) : (finishEmpty s).resets = s.resets := rfl
@[simp] theorem finishEmpty_forgets (s : State) : (finishEmpty s).forgets = s.forgets + 1 := rfl

/-! ## `State.setMem` -/

@[simp] theorem setMem_cfg (s : State) (b : Buf) (m : Mem) : (s.setMem b m).cfg = s.cfg := by cases b <;> rfl
@[simp] theorem setMem_status (s : State) (b : Buf) (m : Mem) : (s.setMem b m).status = s.status := by cases b <;> rfl
@[simp] theorem setMem_err (s : State) (b : Buf) (m : Mem) : (s.setMem b m).err = s.err := by cases b <;> rfl
@[simp] theorem setMem_width (s : State) (b : Buf) (m : Mem) : (s.setMem b m).width = s.width := by cases b <;> rfl
@[simp] theorem setMem_height (s : State) (b : Buf) (m : Mem) : (s.setMem b m).height = s.height := by cases b <;> rfl
@[simp] theorem setMem_fmtPri (s : State) (b : Buf) (m : Mem) : (s.setMem b m).fmtPri = s.fmtPri := by cases b <;> rfl
@[simp] theorem setMem_fmtSec (s : State) (b : Buf) (m : Mem) : (s.setMem b m).fmtSec = s.fmtSec := by cases b <;> rfl
@[simp] theorem setMem_inLen (s : State) (b : Buf) (m : Mem) : (s.setMem b m).inLen = s.inLen := by cases b <;> rfl
@[simp] theorem setMem_outLen (s : State) (b : Buf) (m : Mem) : (s.setMem b m).outLen = s.outLen := by cases b <;> rfl
@[simp] theorem setMem_outFmt (s : State) (b : Buf) (m : Mem) : (s.setMem b m).outFmt = s.outFmt := by cases b <;> rfl
@[simp] theorem setMem_inB_inBuf (s : State) (m : Mem) : (s.setMem .inB m).inBuf = m := rfl
@[simp] theorem setMem_key_inBuf (s : State) (m : Mem) : (s.setMem .key m).inBuf = s.inBuf := rfl
@[simp] theorem setMem_rb_inBuf (s : State) (m : Mem) : (s.setMem .rb m).inBuf = s.inBuf := rfl
@[simp] theorem setMem_raw_inBuf (s : State) (m : Mem) : (s.setMem .raw m).inBuf = s.inBuf := rfl
@[simp] theorem setMem_out_inBuf (s : State) (m : Mem) : (s.setMem .out m).inBuf = s.inBuf := rfl
@[simp] theorem setMem_inB_keyBuf (s : State) (m : Mem) : (s.setMem .inB m).keyBuf = s.keyBuf := rfl
@[simp] theorem setMem_key_keyBuf (s : State) (m : Mem) : (s.setMem .key m).keyBuf = m := rfl
@[simp] theorem setMem_rb_keyBuf (s : State) (m : Mem) : (s.setMem .rb m).keyBuf = s.keyBuf := rfl
@[simp] theorem setMem_raw_keyBuf (s : State) (m : Mem) : (s.setMem .raw m).keyBuf = s.keyBuf := rfl
@[simp] theorem setMem_out_keyBuf (s : State) (m : Mem) : (s.setMem .out m).keyBuf = s.keyBuf := rfl
@[simp] theorem setMem_inB_rb (s : State) (m : Mem) : (s.setMem .inB m).rb = s.rb := rfl
@[simp] theorem setMem_key_rb (s : State) (m : Mem) : (s.setMem .key m).rb = s.rb := rfl
@[simp] theorem setMem_rb_rb (s : State) (m : Mem) : (s.setMem .rb m).rb = m := rfl
@[simp] theorem setMem_raw_rb (s : State) (m : Mem) : (s.setMem .raw m).rb = s.rb := rfl
@[simp] theorem setMem_out_rb (s : State) (m : Mem) : (s.setMem .out m).rb = s.rb := rfl
@[simp] theorem setMem_inB_raw (s : State) (m : Mem) : (s.setMem .inB m).raw = s.raw := rfl
@[simp] theorem setMem_key_raw (s : State) (m : Mem) : (s.setMem .key m).raw = s.raw := rfl
@[simp] theorem setMem_rb_raw (s : State) (m : Mem) : (s.setMem .rb m).raw = s.raw := rfl
@[simp] theorem setMem_raw_raw (s : State) (m : Mem) : (s.setMem .raw m).raw = m := rfl
@[simp] theorem setMem_out_raw (s : State) (m : Mem) : (s.setMem .out m).raw = s.raw := rfl
@[simp] theorem setMem_inB_out (s : State) (m : Mem) : (s.setMem .inB m).out = s.out := rfl
@[simp] theorem setMem_key_out (s : State) (m : Mem) : (s.setMem .key m).out = s.out := rfl
@[simp] theorem setMem_rb_out (s : State) (m : Mem) : (s.setMem .rb m).out = s.out := rfl
@[simp] theorem setMem_raw_out (s : State) (m : Mem) : (s.setMem .raw m).out = s.out := rfl
@[simp] theorem setMem_out_out (s : State) (m : Mem) : (s.setMem .out m).out = m := rfl
@[simp] theorem setMem_phase (s : State) (b : Buf) (m : Mem) : (s.setMem b m).phase = s.phase := by cases b <;> rfl
@[simp] theorem setMem_p (s : State) (b : Buf) (m : Mem) : (s.setMem b m).p = s.p := by cases b <;> rfl
@[simp] theorem setMem_fmt (s : State) (b : Buf) (m : Mem) : (s.setMem b m).fmt = s.fmt := by cases b <;> rfl
@[simp] theorem setMem_n (s : State) (b : Buf) (m : Mem) : (s.setMem b m).n = s.n := by cases b <;> rfl
@[simp] theorem setMem_inPos (s : State) (b : Buf) (m : Mem) : (s.setMem b m).inPos = s.inPos := by cases b <;> rfl
@[simp] theorem setMem_rbLen (s : State) (b : Buf) (m : Mem) : (s.setMem b m).rbLen = s.rbLen := by cases b <;> rfl
@[simp] theorem setMem_zLen (s : State) (b : Buf) (m : Mem) : (s.setMem b m).zLen = s.zLen := by cases b <;> rfl
@[simp] theorem setMem_bitPos (s : State) (b : Buf) (m : Mem) : (s.setMem b m).bitPos = s.bitPos := by cases b <;> rfl
@[simp] theorem setMem_rawPos (s : State) (b : Buf) (m : Mem) : (s.setMem b m).rawPos = s.rawPos := by cases b <;> rfl
@[simp] theorem setMem_bfinal (s : State) (b : Buf) (m : Mem) : (s.setMem b m).bfinal = s.bfinal := by cases b <;> rfl
@[simp] theorem setMem_btype (s : State) (b : Buf) (m : Mem) : (s.setMem b m).btype = s.btype := by cases b <;> rfl
@[simp] theorem setMem_llLen (s : State) (b : Buf) (m : Mem) : (s.setMem b m).llLen = s.llLen := by cases b <;> rfl
@[simp] theorem setMem_dLen (s : State) (b : Buf) (m : Mem) : (s.setMem b m).dLen = s.dLen := by cases b <;> rfl
@[simp] theorem setMem_clLen (s : State) (b : Buf) (m : Mem) : (s.setMem b m).clLen = s.clLen := by cases b <;> rfl
@[simp] theorem setMem_ct (s : State) (b : Buf) (m : Mem) : (s.setMem b m).ct = s.ct := by cases b <;> rfl
@[simp] theorem setMem_cidx (s : State) (b : Buf) (m : Mem) : (s.setMem b m).cidx = s.cidx := by cases b <;> rfl
@[simp] theorem setMem_alphaTab (s : State) (b : Buf) (m : Mem) : (s.setMem b m).alphaTab = s.alphaTab := by cases b <;> rfl
@[simp] theorem setMem_aidx (s : State) (b : Buf) (m : Mem) : (s.setMem b m).aidx = s.aidx := by cases b <;> rfl
@[simp] theorem setMem_sub (s : State) (b : Buf) (m : Mem) : (s.setMem b m).sub = s.sub := by cases b <;> rfl
@[simp] theorem setMem_nlen (s : State) (b : Buf) (m : Mem) : (s.setMem b m).nlen = s.nlen := by cases b <;> rfl
@[simp] theorem setMem_ndist (s : State) (b : Buf) (m : Mem) : (s.setMem b m).ndist = s.ndist := by cases b <;> rfl
@[simp] theorem setMem_lens (s : State) (b : Buf) (m : Mem) : (s.setMem b m).lens = s.lens := by cases b <;> rfl
@[simp] theorem setMem_matchLen (s : State) (b : Buf) (m : Mem) : (s.setMem b m).matchLen = s.matchLen := by cases b <;> rfl
@[simp] theorem setMem_host (s : State) (b : Buf) (m : Mem) : (s.setMem b m).host = s.host := by cases b <;> rfl
@[simp] theorem setMem_rdata (s : State) (b : Buf) (m : Mem) : (s.setMem b m).rdata = s.rdata := by cases b <;> rfl
@[simp] theorem setMem_resets (s : State) (b : Buf) (m : Mem) : (s.setMem b m).resets = s.resets := by cases b <;> rfl
@[simp] theorem setMem_forgets (s : State) (b : Buf) (m : Mem) : (s.setMem b m).forgets = s.forgets := by cases b <;> rfl

/-! ## `State.mem`, `State.capOf` and `State.ageOf` -/

@[simp] theorem mem_inB (s : State) : s.mem .inB = s.inBuf := rfl
@[simp] theorem mem_key (s : State) : s.mem .key = s.keyBuf := rfl
@[simp] theorem mem_rb (s : State) : s.mem .rb = s.rb := rfl
@[simp] theorem mem_raw (s : State) : s.mem .raw = s.raw := rfl
@[simp] theorem mem_out (s : State) : s.mem .out = s.out := rfl
@[simp] theorem capOf_inB (s : State) : s.capOf .inB = s.cfg.inCap := rfl
@[simp] theorem capOf_key (s : State) : s.capOf .key = s.cfg.keyLen := rfl
@[simp] theorem capOf_rb (s : State) : s.capOf .rb = s.cfg.rbCap := rfl
@[simp] theorem capOf_raw (s : State) : s.capOf .raw = s.cfg.rawCap := rfl
@[simp] theorem capOf_out (s : State) : s.capOf .out = s.cfg.outCap := rfl
@[simp] theorem ageOf_inB (s : State) : s.ageOf .inB = s.resets := rfl
@[simp] theorem ageOf_key (s : State) : s.ageOf .key = s.resets := rfl
@[simp] theorem ageOf_rb (s : State) : s.ageOf .rb = s.forgets := rfl
@[simp] theorem ageOf_raw (s : State) : s.ageOf .raw = s.forgets := rfl
@[simp] theorem ageOf_out (s : State) : s.ageOf .out = s.forgets := rfl

@[simp] theorem setMem_capOf (s : State) (b c : Buf) (m : Mem) : (s.setMem b m).capOf c = s.capOf c := by
  cases b <;> cases c <;> rfl

@[simp] theorem setMem_ageOf (s : State) (b c : Buf) (m : Mem) : (s.setMem b m).ageOf c = s.ageOf c := by
  cases b <;> cases c <;> rfl

@[simp] theorem setMem_mem_same (s : State) (b : Buf) (m : Mem) : (s.setMem b m).mem b = m := by
  cases b <;> rfl

theorem setMem_mem_other (s : State) (b c : Buf) (m : Mem) (h : c ≠ b) : (s.setMem b m).mem c = s.mem c := by
  cases b <;> cases c <;> first | rfl | exact absurd rfl h

end Sys2Proof.Machine
end

