-- ==== Sys2Proof/Laws/Memory.lean ====
section
/-! SUPPORT. The buffers: a read after a write, the canonical form, and what a load and a store can do. -/

namespace Sys2Proof.Machine

/-! ## The canonical form -/

theorem Mem.get?_put_same (m : Mem) (a : Nat) (v : Byte) : (m.put a v).get? a = some v := by
  induction m with
  | nil => simp [Mem.put, Mem.get?]
  | cons x m ih =>
    obtain ⟨k, w⟩ := x
    by_cases h1 : a = k
    · simp [Mem.put, Mem.get?, h1]
    · by_cases h2 : a < k
      · simp [Mem.put, Mem.get?, h1, h2]
      · simp [Mem.put, Mem.get?, h1, h2, ih]

theorem Mem.get?_put_other (m : Mem) (a c : Nat) (v : Byte) (h : c ≠ a) : (m.put a v).get? c = m.get? c := by
  induction m with
  | nil => simp [Mem.put, Mem.get?, h]
  | cons x m ih =>
    obtain ⟨k, w⟩ := x
    by_cases h1 : a = k
    · subst h1; simp [Mem.put, Mem.get?, h]
    · by_cases h2 : a < k
      · by_cases h3 : c < a
        · have : c < k := by omega
          simp [Mem.put, Mem.get?, h1, h2, h, h3, this, show c ≠ k by omega]
        · simp [Mem.put, Mem.get?, h1, h2, h, h3]
      · simp [Mem.put, Mem.get?, h1, h2, ih]

theorem Mem.risesFrom_mono {lo lo' : Nat} {m : Mem} (h : lo' ≤ lo) (hm : Mem.risesFrom lo m = true) :
    Mem.risesFrom lo' m = true := by
  cases m with
  | nil => rfl
  | cons x m =>
    obtain ⟨k, w⟩ := x
    simp only [Mem.risesFrom, Bool.and_eq_true, decide_eq_true_eq] at hm ⊢
    exact ⟨by omega, hm.2⟩

theorem Mem.risesFrom_put {m : Mem} {lo a : Nat} (v : Byte) (ha : lo ≤ a) (hm : Mem.risesFrom lo m = true) :
    Mem.risesFrom lo (m.put a v) = true := by
  induction m generalizing lo with
  | nil => simp [Mem.put, Mem.risesFrom, ha]
  | cons x m ih =>
    obtain ⟨k, w⟩ := x
    simp only [Mem.risesFrom, Bool.and_eq_true, decide_eq_true_eq] at hm
    by_cases h1 : a = k
    · subst h1; simp [Mem.put, Mem.risesFrom, hm]
    · by_cases h2 : a < k
      · simp [Mem.put, Mem.risesFrom, h1, h2, ha, hm.2]
      · simp only [Mem.put, h1, h2, if_false, Mem.risesFrom, Bool.and_eq_true, decide_eq_true_eq]
        exact ⟨hm.1, ih (by omega) hm.2⟩

/-- A write keeps the canonical form. -/
theorem Mem.wf_put {m : Mem} (a : Nat) (v : Byte) (h : m.wf = true) : (m.put a v).wf = true :=
  Mem.risesFrom_put v (Nat.zero_le a) h

@[simp] theorem Mem.wf_nil : Mem.wf [] = true := rfl

@[simp] theorem Mem.get?_nil (a : Nat) : Mem.get? [] a = none := rfl

theorem Mem.get?_below {m : Mem} {lo a : Nat} (hm : Mem.risesFrom lo m = true) (h : a < lo) : m.get? a = none := by
  cases m with
  | nil => rfl
  | cons x m =>
    obtain ⟨k, w⟩ := x
    simp only [Mem.risesFrom, Bool.and_eq_true, decide_eq_true_eq] at hm
    simp [Mem.get?, show a ≠ k by omega, show a < k by omega]

/-- Two buffers in canonical form with the same bytes are the same list. -/
theorem Mem.ext_of_wf {m m' : Mem} {lo : Nat} (h : Mem.risesFrom lo m = true) (h' : Mem.risesFrom lo m' = true)
    (he : ∀ a, m.get? a = m'.get? a) : m = m' := by
  induction m generalizing m' lo with
  | nil =>
    cases m' with
    | nil => rfl
    | cons x m' => have := he x.1; simp [Mem.get?] at this
  | cons x m ih =>
    obtain ⟨k, w⟩ := x
    simp only [Mem.risesFrom, Bool.and_eq_true, decide_eq_true_eq] at h
    cases m' with
    | nil => have := he k; simp [Mem.get?] at this
    | cons y m' =>
      obtain ⟨k', w'⟩ := y
      simp only [Mem.risesFrom, Bool.and_eq_true, decide_eq_true_eq] at h'
      have hk : k = k' := by
        rcases Nat.lt_trichotomy k k' with hlt | heq | hgt
        · have := he k; simp [Mem.get?, show k ≠ k' by omega, hlt] at this
        · exact heq
        · have := he k'; simp [Mem.get?, show k' ≠ k by omega, hgt] at this
      subst hk
      have hw : w = w' := by have := he k; simpa [Mem.get?] using this
      subst hw
      have : m = m' := by
        refine ih h.2 h'.2 fun a => ?_
        by_cases ha : a < k + 1
        · rw [Mem.get?_below h.2 ha, Mem.get?_below h'.2 ha]
        · have := he a; simpa [Mem.get?, show a ≠ k by omega, show ¬ a < k by omega] using this
      rw [this]

/-! ## Reading a byte -/

theorem byteAt_setMem_put_same (s : State) (b : Buf) (a : Nat) (v : Byte) :
    (s.setMem b ((s.mem b).put a v)).byteAt b a = v := by
  simp [State.byteAt, Mem.get?_put_same]

theorem byteAt_setMem_put_other (s : State) (b c : Buf) (a a' : Nat) (v : Byte) (h : c ≠ b ∨ a' ≠ a) :
    (s.setMem b ((s.mem b).put a v)).byteAt c a' = s.byteAt c a' := by
  by_cases hb : c = b
  · subst hb
    have ha : a' ≠ a := h.resolve_left fun hne => hne rfl
    simp [State.byteAt, Mem.get?_put_other _ _ _ _ ha]
  · simp [State.byteAt, setMem_mem_other s b c _ hb]

/-! ## What a load and a store can do -/

/-- Everything a load can do. -/
theorem load_cases (b : Buf) (a : Nat) (s : State) :
    (a < s.capOf b ∧ load b a s = .ok (s.byteAt b a) s) ∨
      (s.capOf b ≤ a ∧ load b a s = .fault (.addressOutside b a)) := by
  unfold load
  split
  · exact .inl ⟨‹_›, rfl⟩
  · exact .inr ⟨by omega, rfl⟩

theorem load_inside {b : Buf} {a : Nat} {s : State} (h : a < s.capOf b) : load b a s = .ok (s.byteAt b a) s := by
  simp [load, h]

/-- Everything a store can do. -/
theorem store_cases (b : Buf) (a : Nat) (v : Byte) (s : State) :
    (a < s.capOf b ∧ store b a v s = .ok () (s.setMem b ((s.mem b).put a v))) ∨
      (s.capOf b ≤ a ∧ store b a v s = .fault (.addressOutside b a)) := by
  unfold store
  split
  · exact .inl ⟨‹_›, rfl⟩
  · exact .inr ⟨by omega, rfl⟩

theorem store_inside {b : Buf} {a : Nat} {v : Byte} {s : State} (h : a < s.capOf b) :
    store b a v s = .ok () (s.setMem b ((s.mem b).put a v)) := by
  simp [store, h]

end Sys2Proof.Machine
end

