-- ==== Sys2Proof/Laws/Result.lean ====
section
/-! SUPPORT. Results of operations: what they can come to, and how that composes. -/

namespace Sys2Proof.Machine

/-- A result meets `Q` where the operation is complete, `E` where it raises, `F` where it faults; it never refuses. -/
def Res.Sat {α : Type} (r : Res α) (Q : α → State → Prop) (E : ErrCode → State → Prop) (F : Fault → Prop) : Prop :=
  match r with
  | .ok a s => Q a s
  | .err e s => E e s
  | .fault f => F f
  | .refuse _ => False

section
variable {α β : Type} {Q : α → State → Prop} {E : ErrCode → State → Prop} {F : Fault → Prop}

@[simp] theorem Res.sat_ok (a : α) (s : State) : (Res.ok a s).Sat Q E F ↔ Q a s := Iff.rfl
@[simp] theorem Res.sat_err (e : ErrCode) (s : State) : (Res.err e s : Res α).Sat Q E F ↔ E e s := Iff.rfl
@[simp] theorem Res.sat_fault (f : Fault) : (Res.fault f : Res α).Sat Q E F ↔ F f := Iff.rfl

@[simp] theorem Res.andThen_ok (a : α) (s : State) (k : α → State → Res β) : (Res.ok a s).andThen k = k a s := rfl
@[simp] theorem Res.andThen_err (e : ErrCode) (s : State) (k : α → State → Res β) :
    (Res.err e s : Res α).andThen k = .err e s := rfl
@[simp] theorem Res.andThen_fault (f : Fault) (k : α → State → Res β) :
    (Res.fault f : Res α).andThen k = .fault f := rfl

/-- First one operation, then another: the second starts where the first is complete. -/
theorem Res.Sat.andThen {r : Res α} {k : α → State → Res β} {Q' : β → State → Prop} (h : r.Sat Q E F)
    (hk : ∀ a s, Q a s → (k a s).Sat Q' E F) : (r.andThen k).Sat Q' E F := by
  cases r with
  | ok a s => exact hk a s h
  | err e s => exact h
  | fault f => exact h
  | refuse x => exact h.elim

theorem Res.Sat.mono {r : Res α} {Q' : α → State → Prop} {E' : ErrCode → State → Prop} {F' : Fault → Prop}
    (h : r.Sat Q E F) (hQ : ∀ a s, Q a s → Q' a s) (hE : ∀ e s, E e s → E' e s) (hF : ∀ f, F f → F' f) :
    r.Sat Q' E' F' := by
  cases r with
  | ok a s => exact hQ a s h
  | err e s => exact hE e s h
  | fault f => exact hF f h
  | refuse x => exact h.elim

theorem Res.Sat.mono_ok {r : Res α} {Q' : α → State → Prop} (h : r.Sat Q E F) (hQ : ∀ a s, Q a s → Q' a s) :
    r.Sat Q' E F := h.mono hQ (fun _ _ h => h) (fun _ h => h)

/-- The loop of 00_scope.md R11: an invariant that holds at the start and that every turn carries on holds at the end. -/
theorem forUp_sat {body : Nat → State → Res Unit} (I : Nat → State → Prop) (n a : Nat) {s : State} (h0 : I a s)
    (hb : ∀ i t, a ≤ i → i < a + n → I i t → (body i t).Sat (fun _ u => I (i + 1) u) E F) :
    (forUp n a body s).Sat (fun _ u => I (a + n) u) E F := by
  induction n generalizing a s with
  | zero => exact h0
  | succ n ih =>
    refine Res.Sat.andThen (hb a s (le_refl a) (by omega) h0) fun _ t ht => ?_
    have := ih (a + 1) ht fun i u h1 h2 hu => hb i u (by omega) (by omega) hu
    simpa [Nat.add_assoc, Nat.add_comm 1 n] using this

/-- The loop of 00_scope.md R11 is complete where every turn is. -/
theorem forUp_ok {body : Nat → State → Res Unit} (I : Nat → State → Prop) (n a : Nat) {s : State} (h0 : I a s)
    (hb : ∀ i t, a ≤ i → i < a + n → I i t → ∃ u, body i t = .ok () u ∧ I (i + 1) u) :
    ∃ u, forUp n a body s = .ok () u ∧ I (a + n) u := by
  induction n generalizing a s with
  | zero => exact ⟨s, rfl, h0⟩
  | succ n ih =>
    obtain ⟨t, ht, hI⟩ := hb a s (le_refl a) (by omega) h0
    obtain ⟨u, hu, hJ⟩ := ih (a + 1) hI fun i v h1 h2 hv => hb i v (by omega) (by omega) hv
    exact ⟨u, by simp [forUp, ht, hu], by simpa [Nat.add_assoc, Nat.add_comm 1 n] using hJ⟩

/-- An operation that is complete with `Q` and nothing else. -/
theorem Res.Sat.toOutcome {r : Res Unit} {Q : Unit → State → Prop} {E : ErrCode → State → Prop} {F : Fault → Prop}
    {P : State → Prop} (h : r.Sat Q E F) (hQ : ∀ t, Q () t → P t) (hE : ∀ e t, E e t → P (takeError e t)) :
    (∃ t, r.toOutcome = .next t ∧ P t) ∨ ∃ f, r.toOutcome = .fault f ∧ F f := by
  cases r with
  | ok a s => exact .inl ⟨s, rfl, hQ s h⟩
  | err e s => exact .inl ⟨_, rfl, hE e s h⟩
  | fault f => exact .inr ⟨f, rfl, h⟩
  | refuse x => exact h.elim

end

end Sys2Proof.Machine
end

