-- ==== Sys2Proof/Laws/Operands.lean ====
section
/-! SUPPORT. Reading operands: what `MemRead`, `getbit`, `getbits` and `decode` of a Huffman code can do. -/

namespace Sys2Proof.Machine

/-! ## Little-endian values -/

theorem le_lt (s : State) (b : Buf) (a n : Nat) : s.le b a n < 256 ^ n := by
  induction n generalizing a with
  | zero => simp [State.le]
  | succ n ih =>
    have := ih (a + 1)
    have hb := (s.byteAt b a).isLt
    simp only [State.le, Nat.pow_succ]
    omega

/-- `MemRead` inside the buffer. -/
theorem memRead_inside {b : Buf} {a n : Nat} {s : State} (h : a + n ≤ s.capOf b) :
    memRead b a n s = .ok (s.le b a n) s := by
  induction n generalizing a with
  | zero => rfl
  | succ n ih => simp [memRead, State.le, load_inside (show a < s.capOf b by omega), ih (show a + 1 + n ≤ _ by omega)]

/-- `MemRead` leaves the state alone. -/
theorem memRead_sat (b : Buf) (a n : Nat) (s : State) :
    (memRead b a n s).Sat (fun v t => v = s.le b a n ∧ t = s ∧ (0 < n → a + n ≤ s.capOf b)) (fun _ _ => False)
      (fun f => s.capOf b < a + n ∧ ∃ k, f = .addressOutside b k) := by
  induction n generalizing a with
  | zero => simp [memRead, State.le]
  | succ n ih =>
    rcases load_cases b a s with ⟨h, he⟩ | ⟨h, he⟩
    · simp only [memRead, he, Res.andThen_ok]
      refine Res.Sat.andThen ((ih (a + 1)).mono (fun _ _ h => h) (fun _ _ h => h) fun f hf => ⟨by omega, hf.2⟩) ?_
      rintro v t ⟨rfl, rfl, hc⟩
      refine ⟨rfl, rfl, fun _ => ?_⟩
      rcases Nat.eq_zero_or_pos n with rfl | hn
      · omega
      · have := hc hn; omega
    · simp only [memRead, he, Res.andThen_fault, Res.sat_fault]
      exact ⟨by omega, a, rfl⟩

/-! ## The stream -/

@[simp] theorem zByte_bitPos (s : State) (k m : Nat) : ({ s with bitPos := m } : State).zByte k = s.zByte k := rfl
@[simp] theorem zBit_bitPos (s : State) (k m : Nat) : ({ s with bitPos := m } : State).zBit k = s.zBit k := rfl
@[simp] theorem zInside_bitPos (s : State) (m : Nat) : ({ s with bitPos := m } : State).zInside ↔ s.zInside := Iff.rfl

@[simp] theorem zField_bitPos (s : State) (k m n : Nat) :
    ({ s with bitPos := m } : State).zField k n = s.zField k n := by
  induction n generalizing k with
  | zero => rfl
  | succ n ih => simp [State.zField, ih]

theorem zBit_lt (s : State) (k : Nat) : s.zBit k < 2 := Nat.mod_lt _ (by decide)

theorem zField_lt (s : State) (k n : Nat) : s.zField k n < 2 ^ n := by
  induction n generalizing k with
  | zero => simp [State.zField]
  | succ n ih =>
    have := ih (k + 1)
    have := zBit_lt s k
    simp only [State.zField, Nat.pow_succ]
    omega

theorem loadZ_inside {s : State} {k : Nat} (hz : s.zInside) (hk : k < s.zLen) : loadZ k s = .ok (s.zByte k) s := by
  have h : (s.zPlace k).2 < s.capOf (s.zPlace k).1 := by
    unfold State.zInside at hz
    unfold State.zPlace
    split at hz <;> rename_i h <;> simp [h] <;> omega
  simp [loadZ, load_inside h, State.zByte]

/-- `MemRead(Z, a, 2)` inside the stream. -/
theorem readZ_two {s : State} {a : Nat} (hz : s.zInside) (ha : a + 1 < s.zLen) : readZ a 2 s = .ok (s.zLe16 a) s := by
  simp [readZ, loadZ_inside hz (show a < s.zLen by omega), loadZ_inside hz ha, State.zLe16]

/-- `getbit` before the end of `Z`. -/
theorem getbit_inside {s : State} (hz : s.zInside) (h : s.bitPos < 8 * s.zLen) :
    getbit s = .ok (s.zBit s.bitPos) { s with bitPos := s.bitPos + 1 } := by
  simp [getbit, show ¬ 8 * s.zLen ≤ s.bitPos by omega, loadZ_inside hz (show s.bitPos / 8 < s.zLen by omega),
    State.zBit]

/-- `getbit` at the end of `Z` (42_deflate.md R162). -/
theorem getbit_end {s : State} (h : 8 * s.zLen ≤ s.bitPos) : getbit s = .err .trunc s := by simp [getbit, h]

/-- `getbits` before the end of `Z`. -/
theorem getbits_inside {s : State} {n : Nat} (hz : s.zInside) (h : s.bitPos + n ≤ 8 * s.zLen) :
    getbits n s = .ok (s.zField s.bitPos n) { s with bitPos := s.bitPos + n } := by
  induction n generalizing s with
  | zero => rfl
  | succ n ih =>
    have h1 := getbit_inside hz (show s.bitPos < 8 * s.zLen by omega)
    have h2 := ih (s := { s with bitPos := s.bitPos + 1 }) hz (by simp only; omega)
    simp only [zField_bitPos] at h2
    simp [getbits, h1, h2, State.zField, Nat.add_comm, Nat.add_left_comm]

/-- `getbits` where the stream ends before its last bit (42_deflate.md R162). -/
theorem getbits_short {s : State} {n : Nat} (hz : s.zInside) (hn : 0 < n) (h : 8 * s.zLen < s.bitPos + n) :
    ∃ m, getbits n s = .err .trunc { s with bitPos := m } := by
  induction n generalizing s with
  | zero => omega
  | succ n ih =>
    by_cases hb : 8 * s.zLen ≤ s.bitPos
    · exact ⟨s.bitPos, by simp [getbits, getbit_end hb]⟩
    · obtain ⟨m, hm⟩ := ih (s := { s with bitPos := s.bitPos + 1 }) hz (by omega) (by simp only; omega)
      exact ⟨m, by simp [getbits, getbit_inside hz (show s.bitPos < 8 * s.zLen by omega), hm]⟩

/-- Where `BITPOS` may stand after reading from `s`: the rest of the state is as it was. -/
def Advanced (s t : State) : Prop := ∃ k, s.bitPos ≤ k ∧ t = { s with bitPos := k }

theorem Advanced.refl (s : State) : Advanced s s := ⟨s.bitPos, le_refl _, rfl⟩

theorem Advanced.trans {s t u : State} (h : Advanced s t) (h' : Advanced t u) : Advanced s u := by
  obtain ⟨k, hk, rfl⟩ := h
  obtain ⟨m, hm, rfl⟩ := h'
  exact ⟨m, le_trans hk hm, rfl⟩

theorem Advanced.zInside {s t : State} (h : Advanced s t) (hz : s.zInside) : t.zInside := by
  obtain ⟨k, hk, rfl⟩ := h
  exact hz

/-- Everything `getbit` can do. -/
theorem getbit_sat {s : State} (hz : s.zInside) :
    (getbit s).Sat (fun v t => v < 2 ∧ s.bitPos < 8 * s.zLen ∧ t = { s with bitPos := s.bitPos + 1 })
      (fun e t => e = .trunc ∧ t = s) (fun _ => False) := by
  by_cases h : 8 * s.zLen ≤ s.bitPos
  · rw [getbit_end h]; exact ⟨rfl, rfl⟩
  · rw [getbit_inside hz (by omega)]; exact ⟨zBit_lt _ _, by omega, rfl⟩

/-- Everything `getbits` can do. -/
theorem getbits_sat {s : State} (n : Nat) (hz : s.zInside) :
    (getbits n s).Sat (fun v t => v < 2 ^ n ∧ t = { s with bitPos := s.bitPos + n } ∧ (0 < n → t.bitPos ≤ 8 * s.zLen))
      (fun e t => e = .trunc ∧ Advanced s t) (fun _ => False) := by
  induction n generalizing s with
  | zero => exact ⟨by decide, rfl, by simp⟩
  | succ n ih =>
    refine Res.Sat.andThen ((getbit_sat hz).mono (fun _ _ h => h) (fun e t h => ⟨h.1, h.2 ▸ Advanced.refl s⟩)
      (fun _ h => h)) ?_
    rintro b t ⟨hb, hlt, rfl⟩
    refine Res.Sat.andThen ((ih (s := { s with bitPos := s.bitPos + 1 }) hz).mono (fun _ _ h => h)
      (fun e t h => ⟨h.1, Advanced.trans ⟨s.bitPos + 1, by omega, rfl⟩ h.2⟩) (fun _ h => h)) ?_
    rintro v u ⟨hv, rfl, hle⟩
    refine ⟨by rw [Nat.pow_succ]; omega, by simp [Nat.add_comm, Nat.add_left_comm], fun _ => ?_⟩
    rcases Nat.eq_zero_or_pos n with rfl | hn
    · simp; omega
    · have := hle hn; simpa using this

/-! ## Huffman symbols -/

/-- A symbol found among the lengths is one of them, and its length is the one sought. -/
theorem nthOfLen_mem {l k base sym : Nat} {lens : List Nat} (h : nthOfLen l k base lens = some sym) :
    base ≤ sym ∧ sym < base + lens.length ∧ lens[sym - base]? = some l := by
  induction lens generalizing k base with
  | nil => simp [nthOfLen] at h
  | cons x xs ih =>
    have step : ∀ {k'}, nthOfLen l k' (base + 1) xs = some sym →
        base ≤ sym ∧ sym < base + (x :: xs).length ∧ (x :: xs)[sym - base]? = some l := by
      intro k' h'
      obtain ⟨h1, h2, h3⟩ := ih h'
      refine ⟨by omega, by simp; omega, ?_⟩
      rw [show sym - base = (sym - (base + 1)) + 1 by omega]
      simpa using h3
    by_cases hx : x = l
    · subst hx
      cases k with
      | zero =>
        simp [nthOfLen] at h
        subst h
        simp
      | succ k =>
        simp [nthOfLen] at h
        exact step h
    · simp [nthOfLen, hx] at h
      exact step h

theorem symbolOf_lt {lens : List Nat} {l v sym : Nat} (h : symbolOf lens l v = some sym) : sym < lens.length := by
  unfold symbolOf at h
  split at h
  · simp at h
  · have := (nthOfLen_mem h).2.1; omega

theorem symbolLoop_sat {lens : List Nat} {s : State} (left l v : Nat) (hz : s.zInside) :
    (symbolLoop lens left l v s).Sat
      (fun sym t => sym < lens.length ∧ Advanced s t ∧ s.bitPos < t.bitPos ∧ t.bitPos ≤ 8 * s.zLen)
      (fun e t => (e = .trunc ∨ e = .stream) ∧ Advanced s t) (fun _ => False) := by
  induction left generalizing s l v with
  | zero => exact ⟨.inr rfl, Advanced.refl s⟩
  | succ left ih =>
    refine Res.Sat.andThen ((getbit_sat hz).mono (fun _ _ h => h)
      (fun e t h => ⟨.inl h.1, h.2 ▸ Advanced.refl s⟩) (fun _ h => h)) ?_
    rintro b t ⟨hb, hlt, rfl⟩
    have adv : Advanced s { s with bitPos := s.bitPos + 1 } := ⟨s.bitPos + 1, by omega, rfl⟩
    split
    · rename_i sym hsym
      exact ⟨symbolOf_lt hsym, adv, by simp, by simp; omega⟩
    · refine (ih (s := { s with bitPos := s.bitPos + 1 }) (l + 1) (v <<< 1 ||| b) hz).mono ?_
        (fun e t h => ⟨h.1, adv.trans h.2⟩) (fun _ h => h)
      rintro sym t ⟨h1, h2, h3, h4⟩
      exact ⟨h1, adv.trans h2, by simp at h3; omega, h4⟩

/-- Everything `decode` of a Huffman code can do (42_deflate.md R171). -/
theorem readSymbol_sat {s : State} (lens : List Nat) (hz : s.zInside) :
    (readSymbol lens s).Sat
      (fun sym t => sym < lens.length ∧ Advanced s t ∧ s.bitPos < t.bitPos ∧ t.bitPos ≤ 8 * s.zLen)
      (fun e t => (e = .trunc ∨ e = .stream) ∧ Advanced s t) (fun _ => False) := by
  unfold readSymbol
  split
  · exact ⟨.inr rfl, Advanced.refl s⟩
  · exact symbolLoop_sat _ _ _ hz

/-! ## Codewords -/

/-- The codewords of a greater length start after every codeword of length `l`, continued. -/
theorem firstCode_after {lens : List Nat} {l : Nat} (d : Nat) :
    2 ^ (d + 1) * (firstCode lens l + lenCount lens l) ≤ firstCode lens (l + d + 1) := by
  induction d with
  | zero => simp [firstCode, Nat.shiftLeft_eq]; omega
  | succ d ih =>
    rw [show l + (d + 1) + 1 = (l + d + 1) + 1 by omega, firstCode, Nat.shiftLeft_eq, Nat.pow_succ 2 (d + 1)]
    nlinarith

/-- Only as many symbols are found as have the length. -/
theorem nthOfLen_count {l k base sym : Nat} {lens : List Nat} (h : nthOfLen l k base lens = some sym) :
    k < lens.count l := by
  induction lens generalizing k base with
  | nil => simp [nthOfLen] at h
  | cons x xs ih =>
    by_cases hx : x = l
    · subst hx
      cases k with
      | zero => simp
      | succ k => simp [nthOfLen] at h; have := ih h; simp; omega
    · simp [nthOfLen, hx] at h
      have := ih h
      rw [List.count_cons_of_ne hx]; exact this

theorem symbolOf_bound {lens : List Nat} {l v sym : Nat} (hl : 1 ≤ l) (h : symbolOf lens l v = some sym) :
    v < firstCode lens l + lenCount lens l := by
  unfold symbolOf at h
  split at h
  · cases h
  · have := nthOfLen_count h
    simp [lenCount, show l ≠ 0 by omega]; omega

/-- No proper prefix of a codeword is a codeword (42_deflate.md R170). -/
theorem symbolOf_prefix {lens : List Nat} {l d sym : Nat} (hl : 1 ≤ l) (hL : lens.getD sym 0 = l + d + 1) :
    symbolOf lens l (codeword lens sym >>> (d + 1)) = none := by
  by_contra hne
  obtain ⟨x, hx⟩ := Option.ne_none_iff_exists'.1 hne
  have h1 := symbolOf_bound hl hx
  have h2 := firstCode_after (lens := lens) (l := l) d
  have h3 : firstCode lens (l + d + 1) ≤ codeword lens sym := by unfold codeword; rw [hL]; omega
  have h4 : firstCode lens l + lenCount lens l ≤ codeword lens sym >>> (d + 1) := by
    rw [Nat.shiftRight_eq_div_pow, Nat.le_div_iff_mul_le (by positivity), Nat.mul_comm]; omega
  omega

/-- `kraft` restricted to the lengths up to `m`. -/
def kraftUpTo (m : Nat) (lens : List Nat) : Nat := (lens.map fun x => if x = 0 ∨ m < x then 0 else 2 ^ (15 - x)).sum

theorem kraftUpTo_succ (m : Nat) (lens : List Nat) :
    kraftUpTo (m + 1) lens = kraftUpTo m lens + lenCount lens (m + 1) * 2 ^ (15 - (m + 1)) := by
  simp only [lenCount, Nat.succ_ne_zero, if_false]
  induction lens with
  | nil => simp [kraftUpTo]
  | cons a l ih =>
    simp only [kraftUpTo, List.map_cons, List.sum_cons] at *
    by_cases ha : a = m + 1
    · subst ha; simp; rw [ih, show 15 - (m + 1) = 14 - m by omega]; ring
    · rw [List.count_cons_of_ne ha, ih]
      have : (m + 1 < a) ↔ m < a := by omega
      simp only [this]; omega

theorem kraftUpTo_le (m : Nat) (lens : List Nat) : kraftUpTo m lens ≤ kraft lens := by
  unfold kraftUpTo kraft
  apply List.sum_le_sum
  intro x hx
  split <;> split <;> simp_all

theorem firstCode_kraft (lens : List Nat) (m : Nat) (hm : m ≤ 15) :
    (firstCode lens m + lenCount lens m) * 2 ^ (15 - m) = kraftUpTo m lens := by
  induction m with
  | zero =>
    have : kraftUpTo 0 lens = 0 := by
      unfold kraftUpTo; induction lens with
      | nil => rfl
      | cons a l ih => simp only [List.map_cons, List.sum_cons, ih]; simp
    simp [this, firstCode, lenCount]
  | succ m ih =>
    rw [kraftUpTo_succ, ← ih (by omega), firstCode, Nat.shiftLeft_eq, show 15 - m = (15 - (m + 1)) + 1 by omega,
      Nat.pow_succ]
    ring

theorem count_take_lt {l : List Nat} {i : Nat} (h : i < l.length) :
    (l.take i).count (l.getD i 0) < l.count (l.getD i 0) := by
  have hg : l.getD i 0 = l[i] := by simp [List.getD, h]
  rw [hg]
  have := congrArg (List.count l[i]) (List.take_append_drop i l)
  rw [List.count_append, List.drop_eq_getElem_cons h, List.count_cons_self] at this
  omega

/-- Where the code is not over-subscribed a codeword fits in its length (42_deflate.md R170, R172). -/
theorem codeword_lt {lens : List Nat} {sym : Nat} (h15 : ∀ l ∈ lens, l ≤ 15) (hk : kraft lens ≤ 2 ^ 15)
    (h0 : lens.getD sym 0 ≠ 0) : codeword lens sym < 2 ^ lens.getD sym 0 := by
  have hs : sym < lens.length := by
    by_contra h
    exact h0 (List.getD_eq_default _ _ (by omega))
  have hc := count_take_lt hs
  have hL : lens.getD sym 0 ≤ 15 := by
    rw [show lens.getD sym 0 = lens[sym] by simp [List.getD, hs]]
    exact h15 _ (List.getElem_mem hs)
  unfold codeword
  generalize lens.getD sym 0 = L at *
  have hK : (firstCode lens L + lenCount lens L) * 2 ^ (15 - L) ≤ 2 ^ L * 2 ^ (15 - L) := by
    rw [firstCode_kraft lens L hL, ← Nat.pow_add, show L + (15 - L) = 15 by omega]
    exact (kraftUpTo_le L lens).trans hk
  have := Nat.le_of_mul_le_mul_right hK (by positivity)
  simp only [lenCount, h0, if_false] at this
  omega

end Sys2Proof.Machine
end

