-- ==== Sys2Proof/Laws/Framing.lean ====
section
/-! SUPPORT. What classification and the stripper can do. -/

namespace Sys2Proof.Machine

/-- Everything a key read can do (41_framing.md R145). -/
theorem keyByte_cases (i : Nat) (s : State) :
    (s.cfg.keyLen ≤ i ∧ keyByte i s = .err .key s) ∨
      (i < s.cfg.keyLen ∧ keyByte i s = .ok (s.byteAt .key i) s) := by
  by_cases h : s.cfg.keyLen ≤ i
  · exact .inl ⟨h, by simp [keyByte, h]⟩
  · exact .inr ⟨by omega, by simp [keyByte, h, load_inside (b := .key) (a := i) (s := s) (by simp; omega)]⟩

/-- Classification always completes, and changes only the `OBF` bit, the phase and the stripper's cursors. -/
theorem classify_sat (h : Half) (s : State) :
    (classify h s).Sat
      (fun _ t => t = { s with status := t.status, phase := t.phase, sub := t.sub, inPos := t.inPos, rbLen := t.rbLen } ∧
        (if s.cfg.hdrSet.contains h = true then t.isObf = false ∧ t.phase = .inflate ∧ t.sub = .entry
          else t.isObf = true ∧ t.phase = .strip ∧ t.inPos = 0 ∧ t.rbLen = 0))
      (fun _ _ => False) (fun _ => False) := by
  unfold classify
  split
  · exact ⟨rfl, by simp [State.isObf, statusObf]⟩
  · exact ⟨rfl, by simp [State.isObf, statusObf]⟩

/-- Everything one byte of a record can do, from a state that differs from `s0` in what has been stripped so far. -/
theorem stripByte_sat {s0 : State} {m : Mem} {k : Nat} (i : Nat) (hin : 5 + (s0.inPos + i) < s0.cfg.inCap)
    (hrb : k < s0.cfg.rbCap) :
    (stripByte i { s0 with rb := m, rbLen := k }).Sat
      (fun _ t => t = { s0 with
        rb := m.put k (s0.byteAt .inB (5 + (s0.inPos + i)) ^^^ s0.byteAt .key i), rbLen := k + 1 })
      (fun e t => e = .key ∧ s0.cfg.keyLen ≤ i ∧ t = { s0 with rb := m, rbLen := k }) (fun _ => False) := by
  unfold stripByte keyByte
  split
  · exact ⟨rfl, by assumption, rfl⟩
  · rename_i hlt
    simp only at hlt
    rw [load_inside (by simp; omega), Res.andThen_ok]
    unfold loadPayload
    rw [load_inside (by simp; omega), Res.andThen_ok, store_inside (by simp [hrb]), Res.andThen_ok]
    rfl

/-- Everything one turn of the record loop can do inside the payload (41_framing.md R144): end it, raise, or strip one
record. -/
theorem stripTurn_sat {s : State} (hin : 5 + s.p ≤ s.cfg.inCap) (hrb : s.rbLen + (s.p - s.inPos) ≤ s.cfg.rbCap) :
    (stripTurn s).Sat
      (fun _ t =>
        (s.p ≤ s.inPos ∧ t = { s with phase := .inflate, sub := .entry }) ∨
        ∃ m, s.inPos + 4 + s.le .inB (5 + s.inPos) 4 ≤ s.p ∧
          t = { s with
            rb := m, rbLen := s.rbLen + s.le .inB (5 + s.inPos) 4
            inPos := s.inPos + 4 + s.le .inB (5 + s.inPos) 4 } ∧
          (s.rb.wf = true → m.wf = true) ∧
          ∀ a, a < s.rbLen ∨ s.rbLen + s.le .inB (5 + s.inPos) 4 ≤ a → m.get? a = s.rb.get? a)
      (fun e t => (e = .framing ∨ e = .key) ∧ t = { s with rb := t.rb, rbLen := t.rbLen, inPos := t.inPos } ∧
        (s.rb.wf = true → t.rb.wf = true) ∧
        ∀ a, s.cfg.rbCap ≤ a → s.rb.get? a = none → t.rb.get? a = none)
      (fun _ => False) := by
  unfold stripTurn
  split
  · exact .inl ⟨by assumption, rfl⟩
  split
  · exact ⟨.inl rfl, rfl, id, fun _ _ h => h⟩
  rw [memRead_inside (by simp; omega), Res.andThen_ok]
  dsimp only
  split
  · exact ⟨.inl rfl, rfl, id, fun _ _ h => h⟩
  generalize s.le .inB (5 + s.inPos) 4 = z at *
  refine Res.Sat.andThen (forUp_sat (s := { s with inPos := s.inPos + 4 }) (body := stripByte)
    (fun k t => ∃ m, t = { s with inPos := s.inPos + 4, rb := m, rbLen := s.rbLen + k } ∧
      (s.rb.wf = true → m.wf = true) ∧ ∀ a, a < s.rbLen ∨ s.rbLen + k ≤ a → m.get? a = s.rb.get? a) z 0
    ⟨s.rb, rfl, id, fun _ _ => rfl⟩ ?_) ?_
  · rintro i t - hi ⟨m, rfl, hwf, hget⟩
    refine (stripByte_sat (s0 := { s with inPos := s.inPos + 4 }) (m := m) (k := s.rbLen + i) i
      (by simp only; omega) (by simp only; omega)).mono ?_ ?_ (fun _ h => h)
    · rintro - u rfl
      refine ⟨_, rfl, fun h => Mem.wf_put _ _ (hwf h), fun a ha => ?_⟩
      rw [Mem.get?_put_other _ _ _ _ (by omega), hget a (by omega)]
    · rintro e u ⟨rfl, -, rfl⟩
      exact ⟨.inr rfl, rfl, hwf, fun a ha h => by rw [hget a (by omega)]; exact h⟩
  · rintro - t ⟨m, rfl, hwf, hget⟩
    exact .inr ⟨m, by omega, by simp only [Nat.zero_add], hwf, fun a ha => hget a (by omega)⟩

end Sys2Proof.Machine
end

