-- ==== Sys2Proof/Laws/Inflate.lean ====
section
/-! SUPPORT. What the operations of INFLATE can do: `emit`, the copies, the blocks, the code lengths, the matches. -/

namespace Sys2Proof.Machine

/-! ## Producing bytes -/

/-- `emit` at a place inside `RAW` (42_deflate.md R164). -/
theorem emit_inside {b : Byte} {s : State} (h : s.rawPos < s.cfg.rawCap) :
    emit b s =
      if s.rawPos + 1 = s.n then
        .ok true { s with raw := s.raw.put s.rawPos b, rawPos := s.rawPos + 1, phase := .repack }
      else .ok false { s with raw := s.raw.put s.rawPos b, rawPos := s.rawPos + 1 } := by
  simp [emit, store_inside (b := .raw) (a := s.rawPos) (v := b) (s := s) h, State.setMem]

/-- What producing bytes changes: `RAW`, the cursors, and the phase when the stop rule fires. -/
structure Produced (s t : State) : Prop where
  same : t = { s with raw := t.raw, rawPos := t.rawPos, bitPos := t.bitPos, phase := t.phase }
  canonical : s.raw.wf = true → t.raw.wf = true
  inside : (∀ a, s.cfg.rawCap ≤ a → s.raw.get? a = none) → ∀ a, s.cfg.rawCap ≤ a → t.raw.get? a = none
  rises : s.rawPos ≤ t.rawPos
  bits : s.bitPos ≤ t.bitPos

theorem Produced.refl (s : State) : Produced s s := ⟨rfl, id, id, le_refl _, le_refl _⟩

theorem Produced.trans {s t u : State} (h : Produced s t) (h' : Produced t u) : Produced s u := by
  refine ⟨?_, h'.canonical ∘ h.canonical, fun hs => ?_, le_trans h.rises h'.rises, le_trans h.bits h'.bits⟩
  · rw [h'.same, h.same]
  · have hc : t.cfg = s.cfg := by rw [h.same]
    have := h'.inside
    rw [hc] at this
    exact this (h.inside hs)

theorem Produced.zInside {s t : State} (h : Produced s t) (hz : s.zInside) : t.zInside := by
  rw [h.same]; exact hz

theorem Produced.moveBits {s t : State} (h : Produced s t) {k : Nat} (hk : t.bitPos ≤ k) :
    Produced s { t with bitPos := k } := by
  refine h.trans ⟨rfl, id, id, le_refl _, hk⟩

/-- Everything `emit` can do while a byte is still wanted. -/
theorem emit_sat {b : Byte} {s : State} (hlt : s.rawPos < s.n) (hn : s.n ≤ s.cfg.rawCap) :
    (emit b s).Sat
      (fun stop t => Produced s t ∧ t.bitPos = s.bitPos ∧ t.rawPos = s.rawPos + 1 ∧
        (if stop = true then t.rawPos = t.n ∧ t.phase = .repack else t.rawPos < t.n ∧ t.phase = s.phase))
      (fun _ _ => False) (fun _ => False) := by
  rw [emit_inside (by omega)]
  have hprod : ∀ p : Phase, Produced s { s with raw := s.raw.put s.rawPos b, rawPos := s.rawPos + 1, phase := p } := by
    intro p
    refine ⟨rfl, fun h => Mem.wf_put _ _ h, fun h a ha => ?_, by simp, le_refl _⟩
    simp only [Mem.get?_put_other s.raw s.rawPos a b (by omega)]
    exact h a ha
  split
  · exact ⟨hprod _, rfl, rfl, by simp; assumption⟩
  · exact ⟨hprod s.phase, rfl, rfl, by simp; omega⟩

/-- What a copy leaves: either the stop rule fired, or the phase goes on with a byte still wanted. -/
def CopyEnd (s : State) (stop : Bool) (t : State) : Prop :=
  Produced s t ∧ if stop = true then t.rawPos = t.n ∧ t.phase = .repack else t.rawPos < t.n ∧ t.phase = s.phase

/-- Everything the copy of a stored block can do (42_deflate.md R167). -/
theorem storedCopy_sat {s : State} (left : Nat) (hz : s.zInside) (hlt : s.rawPos < s.n) (hn : s.n ≤ s.cfg.rawCap) :
    (storedCopy left s).Sat (CopyEnd s) (fun e t => e = .trunc ∧ Produced s t ∧ t.phase = s.phase)
      (fun _ => False) := by
  induction left generalizing s with
  | zero => exact ⟨Produced.refl s, by simp [hlt]⟩
  | succ left ih =>
    unfold storedCopy
    split
    · exact ⟨rfl, Produced.refl s, rfl⟩
    · rw [loadZ_inside hz (by omega), Res.andThen_ok]
      refine Res.Sat.andThen ((emit_sat hlt hn).mono_ok (fun _ _ h => h) |>.mono (fun _ _ h => h)
        (fun _ _ h => h.elim) (fun _ h => h)) ?_
      rintro stop t ⟨hp, hb, hr, hs⟩
      cases stop with
      | true => simp at hs ⊢; exact ⟨hp, by simpa using hs⟩
      | false =>
        simp only [Bool.false_eq_true, if_false] at hs ⊢
        have h2 := hp.moveBits (k := t.bitPos + 8) (by omega)
        have hcfg : t.cfg = s.cfg := by rw [hp.same]
        have htn : t.n = s.n := by rw [hp.same]
        refine (ih (s := { t with bitPos := t.bitPos + 8 }) (h2.zInside hz) hs.1 (by simp [hcfg, htn, hn])).mono ?_ ?_
          (fun _ h => h)
        · rintro stop u ⟨hu, hc⟩
          refine ⟨h2.trans hu, ?_⟩
          cases stop <;> simp_all
        · rintro e u ⟨he, hu, hph⟩
          exact ⟨he, h2.trans hu, by rw [hph]; exact hs.2⟩

/-- Everything the copy of a match can do (42_deflate.md R181). -/
theorem matchCopy_sat {s : State} (dist left : Nat) (hd : 0 < dist) (hlt : s.rawPos < s.n) (hn : s.n ≤ s.cfg.rawCap) :
    (matchCopy dist left s).Sat (fun stop t => CopyEnd s stop t ∧ t.bitPos = s.bitPos) (fun _ _ => False)
      (fun _ => False) := by
  induction left generalizing s with
  | zero => exact ⟨⟨Produced.refl s, by simp [hlt]⟩, rfl⟩
  | succ left ih =>
    unfold matchCopy
    rw [load_inside (show s.rawPos - dist < s.capOf .raw by simp; omega), Res.andThen_ok]
    refine Res.Sat.andThen (emit_sat hlt hn) ?_
    rintro stop t ⟨hp, hb, hr, hs⟩
    cases stop with
    | true => simp at hs ⊢; exact ⟨⟨hp, by simpa using hs⟩, hb⟩
    | false =>
      simp only [Bool.false_eq_true, if_false] at hs ⊢
      have hcfg : t.cfg = s.cfg := by rw [hp.same]
      have htn : t.n = s.n := by rw [hp.same]
      refine (ih hs.1 (by rw [hcfg, htn]; exact hn)).mono ?_ (fun _ _ h => h) (fun _ h => h)
      rintro stop u ⟨⟨hu, hc⟩, hbu⟩
      refine ⟨⟨hp.trans hu, ?_⟩, by rw [hbu, hb]⟩
      cases stop <;> simp_all

/-! ## Code lengths -/

/-- What reading a dynamic block's header changes. -/
theorem readClLens_sat {s : State} (cs : List Nat) (hz : s.zInside) (hl : s.clLen.length = 19 ∧ ∀ l ∈ s.clLen, l ≤ 7) :
    (readClLens cs s).Sat
      (fun _ t => t = { s with clLen := t.clLen, bitPos := t.bitPos } ∧ s.bitPos ≤ t.bitPos ∧
        t.clLen.length = 19 ∧ ∀ l ∈ t.clLen, l ≤ 7)
      (fun e t => e = .trunc ∧ t = { s with clLen := t.clLen, bitPos := t.bitPos } ∧
        t.clLen.length = 19 ∧ ∀ l ∈ t.clLen, l ≤ 7) (fun _ => False) := by
  induction cs generalizing s with
  | nil => exact ⟨rfl, le_refl _, hl⟩
  | cons c cs ih =>
    refine Res.Sat.andThen ((getbits_sat 3 hz).mono (fun _ _ h => h) ?_ (fun _ h => h)) ?_
    · rintro e t ⟨rfl, k, hk, rfl⟩; exact ⟨rfl, rfl, hl⟩
    · rintro v t ⟨hv, rfl, -⟩
      have hl2 : (s.clLen.set c v).length = 19 ∧ ∀ l ∈ s.clLen.set c v, l ≤ 7 := by
        refine ⟨by simp [hl.1], fun l h => ?_⟩
        rcases List.mem_or_eq_of_mem_set h with h | rfl
        · exact hl.2 l h
        · omega
      refine (ih (s := { s with bitPos := s.bitPos + 3, clLen := s.clLen.set c v }) hz hl2).mono ?_ ?_ (fun _ h => h)
      · rintro - t ⟨h1, h2, h3⟩
        exact ⟨by rw [h1], by simp at h2; omega, h3⟩
      · rintro e t ⟨h0, h1, h3⟩
        exact ⟨h0, by rw [h1], h3⟩

/-- Everything the header of a dynamic block can do (42_deflate.md R173, R174). -/
theorem dynamicBlock_sat {s : State} (hz : s.zInside) :
    (dynamicBlock s).Sat
      (fun _ t => t = { s with clLen := t.clLen, bitPos := t.bitPos, nlen := t.nlen, ndist := t.ndist, lens := [], sub := .codeLens } ∧
        s.bitPos ≤ t.bitPos ∧ 257 ≤ t.nlen ∧ t.nlen ≤ 286 ∧ 1 ≤ t.ndist ∧ t.ndist ≤ 30 ∧ t.clLen.length = 19 ∧
        (∀ l ∈ t.clLen, l ≤ 7) ∧ codeLengthsOk true t.clLen = true)
      (fun e t => (e = .trunc ∨ e = .stream) ∧
        t = { s with clLen := t.clLen, bitPos := t.bitPos, nlen := t.nlen, ndist := t.ndist } ∧
        (t.clLen = s.clLen ∨ t.clLen.length = 19 ∧ ∀ l ∈ t.clLen, l ≤ 7))
      (fun _ => False) := by
  unfold dynamicBlock
  refine Res.Sat.andThen ((getbits_sat 5 hz).mono (fun _ _ h => h) ?_ (fun _ h => h)) ?_
  · rintro e t ⟨rfl, k, -, rfl⟩; exact ⟨.inl rfl, rfl, .inl rfl⟩
  rintro v1 t ⟨h1, rfl, -⟩
  refine Res.Sat.andThen ((getbits_sat 5 (s := { s with bitPos := s.bitPos + 5 }) hz).mono (fun _ _ h => h) ?_
    (fun _ h => h)) ?_
  · rintro e t ⟨rfl, k, -, rfl⟩; exact ⟨.inl rfl, rfl, .inl rfl⟩
  rintro v2 t ⟨h2, rfl, -⟩
  refine Res.Sat.andThen ((getbits_sat 4 (s := { s with bitPos := s.bitPos + 5 + 5 }) hz).mono (fun _ _ h => h) ?_
    (fun _ h => h)) ?_
  · rintro e t ⟨rfl, k, -, rfl⟩; exact ⟨.inl rfl, rfl, .inl rfl⟩
  rintro v3 t ⟨h3, rfl, -⟩
  dsimp only
  split
  · exact ⟨.inr rfl, rfl, .inl rfl⟩
  · refine Res.Sat.andThen ((readClLens_sat (clOrder.take (v3 + 4)) (s := { s with bitPos := s.bitPos + 5 + 5 + 4, nlen := v1 + 257, ndist := v2 + 1, clLen := List.replicate 19 0 }) hz
      ⟨by simp, by simp⟩).mono (fun _ _ h => h) ?_ (fun _ h => h)) ?_
    · rintro e t ⟨rfl, he, hl⟩
      obtain ⟨l, m, rfl⟩ : ∃ l m, t = { s with clLen := l, bitPos := m, nlen := v1 + 257, ndist := v2 + 1 } := ⟨_, _, he⟩
      exact ⟨.inl rfl, rfl, .inr hl⟩
    · rintro - t ⟨he, hb, hl⟩
      obtain ⟨l, m, rfl⟩ : ∃ l m, t = { s with clLen := l, bitPos := m, nlen := v1 + 257, ndist := v2 + 1 } := ⟨_, _, he⟩
      simp only at hb
      split
      · rename_i hok
        exact ⟨rfl, by simp only; omega, by simp only; omega, by simp only; omega, by simp only; omega, by simp only; omega, hl.1, hl.2, hok⟩
      · exact ⟨.inr rfl, rfl, .inr hl⟩

/-- Everything building the tables can do (42_deflate.md R176). -/
theorem buildTables_sat (s : State) :
    (buildTables s).Sat
      (fun _ t => t = { s with llLen := t.llLen, dLen := t.dLen, sub := .litlen } ∧
        t.llLen = s.lens.take s.nlen ++ List.replicate (288 - s.nlen) 0 ∧
        t.dLen = (s.lens.drop s.nlen).take s.ndist ++ List.replicate (32 - s.ndist) 0 ∧
        s.lens.getD 256 0 ≠ 0 ∧ codeLengthsOk false t.llLen = true ∧ codeLengthsOk false t.dLen = true)
      (fun e t => e = .stream ∧ (t = s ∨ t = { s with
        llLen := s.lens.take s.nlen ++ List.replicate (288 - s.nlen) 0
        dLen := (s.lens.drop s.nlen).take s.ndist ++ List.replicate (32 - s.ndist) 0 }))
      (fun _ => False) := by
  unfold buildTables
  split
  · exact ⟨rfl, .inl rfl⟩
  · dsimp only
    split
    · split
      · exact ⟨rfl, rfl, rfl, by assumption, by assumption, by assumption⟩
      · exact ⟨rfl, .inr rfl⟩
    · exact ⟨rfl, .inr rfl⟩

/-- What appending code lengths is while the sequence is not complete (42_deflate.md R175). -/
theorem appendLens_more {v r : Nat} {s : State} (h : s.lens.length + r < s.nlen + s.ndist) :
    appendLens v r s = .ok () { s with lens := s.lens ++ List.replicate r v } := by
  simp [appendLens, h]

/-- What appending the last code lengths is (42_deflate.md R176). -/
theorem appendLens_last {v r : Nat} {s : State} (h : s.nlen + s.ndist ≤ s.lens.length + r) :
    appendLens v r s = buildTables { s with lens := s.lens ++ List.replicate r v } := by
  simp [appendLens, show ¬ s.lens.length + r < s.nlen + s.ndist by omega]

/-- Everything a repeat can do (42_deflate.md R175). -/
theorem repeatLens_cases (v r : Nat) (s : State) :
    (s.nlen + s.ndist < s.lens.length + r ∧ repeatLens v r s = .err .stream s) ∨
      (s.lens.length + r ≤ s.nlen + s.ndist ∧ repeatLens v r s = appendLens v r s) := by
  unfold repeatLens
  split
  · exact .inl ⟨by assumption, rfl⟩
  · exact .inr ⟨by omega, rfl⟩

/-! ## Blocks and matches -/

/-- Everything the end of a block can do (42_deflate.md R182). -/
theorem endBlock_cases (s : State) :
    (s.bfinal = 1 ∧ endBlock s = .err .trunc s) ∨ (s.bfinal ≠ 1 ∧ endBlock s = .ok () { s with sub := .header }) := by
  unfold endBlock
  split
  · exact .inl ⟨by assumption, rfl⟩
  · exact .inr ⟨by assumption, rfl⟩

/-- Everything a stored block can do while a byte is still wanted (42_deflate.md R167). -/
theorem storedBlock_sat {s : State} (hz : s.zInside) (hlt : s.rawPos < s.n) (hn : s.n ≤ s.cfg.rawCap) :
    (storedBlock s).Sat
      (fun _ t => ∃ u, Produced s u ∧ (t = u ∧ u.rawPos = u.n ∧ u.phase = .repack ∨
        t = { u with sub := .header } ∧ u.rawPos < u.n ∧ u.phase = s.phase ∧ u.bfinal ≠ 1))
      (fun e t => (e = .trunc ∨ e = .stream) ∧ Produced s t ∧ t.phase = s.phase) (fun _ => False) := by
  unfold storedBlock
  have h0 : Produced s { s with bitPos := 8 * ((s.bitPos + 7) / 8) } := (Produced.refl s).moveBits (by omega)
  dsimp only
  split
  · exact ⟨.inl rfl, h0, rfl⟩
  rename_i hlen
  have hz0 : State.zInside { s with bitPos := 8 * ((s.bitPos + 7) / 8) } := hz
  rw [readZ_two hz0 (by dsimp only; omega), Res.andThen_ok, readZ_two hz0 (by dsimp only; omega), Res.andThen_ok]
  split
  · exact ⟨.inr rfl, h0, rfl⟩
  have h1 := h0.moveBits (k := 8 * ((s.bitPos + 7) / 8) + 32) (by simp)
  refine Res.Sat.andThen ((storedCopy_sat _ (s := { s with bitPos := 8 * ((s.bitPos + 7) / 8) + 32 }) hz hlt hn).mono
    (fun _ _ h => h) ?_ (fun _ h => h)) ?_
  · rintro e t ⟨rfl, hp, hph⟩
    exact ⟨.inl rfl, h1.trans hp, hph⟩
  · rintro stop t ⟨hp, hc⟩
    cases stop with
    | true => simp only [if_true] at hc ⊢; exact ⟨t, h1.trans hp, .inl ⟨rfl, hc⟩⟩
    | false =>
      simp only [Bool.false_eq_true, if_false] at hc ⊢
      rcases endBlock_cases t with ⟨hb, he⟩ | ⟨hb, he⟩ <;> rw [he]
      · exact ⟨.inl rfl, h1.trans hp, hc.2⟩
      · exact ⟨t, h1.trans hp, .inr ⟨rfl, hc.1, hc.2, hb⟩⟩

/-- Everything a length symbol can do (42_deflate.md R179). -/
theorem matchLength_sat {s : State} (base extra : Nat) (hz : s.zInside) :
    (matchLength base extra s).Sat
      (fun _ t => t = { s with bitPos := s.bitPos + extra, matchLen := t.matchLen, sub := .dist } ∧
        base ≤ t.matchLen ∧ t.matchLen < base + 2 ^ extra)
      (fun e t => e = .trunc ∧ Advanced s t) (fun _ => False) := by
  unfold matchLength
  refine Res.Sat.andThen ((getbits_sat extra hz).mono (fun _ _ h => h) (fun _ _ h => h) (fun _ h => h)) ?_
  rintro v t ⟨hv, rfl, -⟩
  exact ⟨rfl, by simp, by simp; omega⟩

/-- Everything a distance symbol can do while a byte is still wanted (42_deflate.md R180, R181). -/
theorem matchDistance_sat {s : State} (base extra : Nat) (hb : 1 ≤ base) (hz : s.zInside) (hlt : s.rawPos < s.n)
    (hn : s.n ≤ s.cfg.rawCap) :
    (matchDistance base extra s).Sat
      (fun _ t => ∃ u, Produced s u ∧ (t = u ∧ u.rawPos = u.n ∧ u.phase = .repack ∨
        t = { u with sub := .litlen } ∧ u.rawPos < u.n ∧ u.phase = s.phase))
      (fun e t => (e = .trunc ∨ e = .stream) ∧ Advanced s t) (fun _ => False) := by
  unfold matchDistance
  refine Res.Sat.andThen ((getbits_sat extra hz).mono (fun _ _ h => h) (fun e t h => ⟨.inl h.1, h.2⟩) (fun _ h => h)) ?_
  rintro v t ⟨hv, rfl, -⟩
  have h1 : Produced s { s with bitPos := s.bitPos + extra } := (Produced.refl s).moveBits (by omega)
  split
  · exact ⟨.inr rfl, s.bitPos + extra, by omega, rfl⟩
  refine Res.Sat.andThen ((matchCopy_sat (base + v) s.matchLen (s := { s with bitPos := s.bitPos + extra }) (by omega)
    hlt hn).mono (fun _ _ h => h) (fun _ _ h => h.elim) (fun _ h => h)) ?_
  rintro stop u ⟨⟨hp, hc⟩, -⟩
  cases stop with
  | true => simp only [if_true] at hc ⊢; exact ⟨u, h1.trans hp, .inl ⟨rfl, hc⟩⟩
  | false => simp only [Bool.false_eq_true, if_false] at hc ⊢; exact ⟨u, h1.trans hp, .inr ⟨rfl, hc⟩⟩

end Sys2Proof.Machine
end

