-- ==== Sys2Proof/Laws/Pixel.lean ====
section
/-! SUPPORT. What dispatch and the repack routines can do: none of them raises or faults on a well-formed state, and they
change only `OUT` and the pixel tables. -/

namespace Sys2Proof.Machine

/-! ## Dispatch -/

/-- Everything DISPATCH can do for a supported format (43_pixel_formats.md R211, R212; 40_host_interface.md R126). -/
theorem dispatchAs_sat (fmt : Nat) (s : State) :
    (dispatchAs fmt s).Sat
      (fun _ t => t = { s with n := rawSize fmt s.w s.h, phase := .classify } ∧ dimsFit fmt s.w s.h = true ∧
        rawSize fmt s.w s.h ≤ s.cfg.rawCap ∧ outSize fmt s.w s.h ≤ s.cfg.outCap)
      (fun e t => t = { s with n := rawSize fmt s.w s.h } ∧ (e = .dim ∧ dimsFit fmt s.w s.h = false ∨
        e = .cap ∧ dimsFit fmt s.w s.h = true ∧
          (s.cfg.rawCap < rawSize fmt s.w s.h ∨ s.cfg.outCap < outSize fmt s.w s.h)))
      (fun _ => False) := by
  unfold dispatchAs
  dsimp only
  split
  · split
    · exact ⟨rfl, .inr ⟨rfl, by assumption, by assumption⟩⟩
    · rename_i hd hc
      exact ⟨rfl, hd, by omega, by omega⟩
  · exact ⟨rfl, .inl ⟨rfl, by simpa using ‹¬ dimsFit fmt s.w s.h = true›⟩⟩

/-! ## What painting changes -/

/-- From `s` to `t` only `OUT` and the pixel tables change, and `OUT` only below index `hi`. -/
structure Painted (hi : Nat) (s t : State) : Prop where
  same : t = { s with out := t.out, ct := t.ct, cidx := t.cidx, alphaTab := t.alphaTab, aidx := t.aidx }
  canonical : s.out.wf = true → t.out.wf = true
  beyond : ∀ a, hi ≤ a → t.out.get? a = s.out.get? a
  kept : ∀ a, (s.out.get? a).isSome → (t.out.get? a).isSome
  ct : s.ct.length = 4 → t.ct.length = 4
  cidx : (s.cidx.length = 16 ∧ ∀ k ∈ s.cidx, k ≤ 3) → t.cidx.length = 16 ∧ ∀ k ∈ t.cidx, k ≤ 3
  alphaTab : s.alphaTab.length = 16 → t.alphaTab.length = 16
  aidx : (s.aidx.length = 16 ∧ ∀ k ∈ s.aidx, k ≤ 7) → t.aidx.length = 16 ∧ ∀ k ∈ t.aidx, k ≤ 7

theorem Painted.refl (hi : Nat) (s : State) : Painted hi s s :=
  ⟨rfl, id, fun _ _ => rfl, fun _ h => h, id, id, id, id⟩

theorem Painted.trans {hi : Nat} {s t u : State} (h : Painted hi s t) (h' : Painted hi t u) : Painted hi s u := by
  refine ⟨?_, h'.canonical ∘ h.canonical, fun a ha => by rw [h'.beyond a ha, h.beyond a ha],
    fun a ha => h'.kept a (h.kept a ha), h'.ct ∘ h.ct, h'.cidx ∘ h.cidx, h'.alphaTab ∘ h.alphaTab, h'.aidx ∘ h.aidx⟩
  have e' := h'.same
  have e := h.same
  rw [e'] ; dsimp only; conv_lhs => rw [e]

theorem Painted.cfg {hi : Nat} {s t : State} (h : Painted hi s t) : t.cfg = s.cfg := by rw [h.same]
theorem Painted.w {hi : Nat} {s t : State} (h : Painted hi s t) : t.w = s.w := by rw [h.same]; rfl
theorem Painted.h {hi : Nat} {s t : State} (h : Painted hi s t) : t.h = s.h := by rw [h.same]; rfl
theorem Painted.raw {hi : Nat} {s t : State} (h : Painted hi s t) : t.raw = s.raw := by rw [h.same]

/-- No byte of `RAW` changes while painting. -/
theorem Painted.byteAt_raw {hi : Nat} {s t : State} (h : Painted hi s t) (a : Nat) :
    t.byteAt .raw a = s.byteAt .raw a := by rw [h.same]; rfl

/-- The operation completes, raises nothing, and paints below `hi`. -/
abbrev Paints (hi : Nat) (s : State) (r : Res Unit) : Prop :=
  r.Sat (fun _ t => Painted hi s t) (fun _ _ => False) (fun _ => False)

/-- Only the pixel tables change. -/
theorem Painted.tables {hi : Nat} {s t u : State} (h : Painted hi s t)
    (hu : u = { t with ct := u.ct, cidx := u.cidx, alphaTab := u.alphaTab, aidx := u.aidx })
    (h1 : t.ct.length = 4 → u.ct.length = 4)
    (h2 : (t.cidx.length = 16 ∧ ∀ k ∈ t.cidx, k ≤ 3) → u.cidx.length = 16 ∧ ∀ k ∈ u.cidx, k ≤ 3)
    (h3 : t.alphaTab.length = 16 → u.alphaTab.length = 16)
    (h4 : (t.aidx.length = 16 ∧ ∀ k ∈ t.aidx, k ≤ 7) → u.aidx.length = 16 ∧ ∀ k ∈ u.aidx, k ≤ 7) :
    Painted hi s u := by
  have hout : u.out = t.out := by rw [hu]
  refine h.trans ⟨?_, by rw [hout]; exact id, fun a _ => by rw [hout], fun a ha => by rw [hout]; exact ha, h1, h2, h3, h4⟩
  conv_lhs => rw [hu]
  rw [hout]

/-! ## Steps of a routine -/

theorem load_painted {hi a : Nat} {s t : State} {α : Type} {k : Byte → State → Res α} {Q : α → State → Prop}
    (hp : Painted hi s t) (ha : a < s.cfg.rawCap)
    (hk : (k (s.byteAt .raw a) t).Sat Q (fun _ _ => False) (fun _ => False)) :
    ((load .raw a t).andThen k).Sat Q (fun _ _ => False) (fun _ => False) := by
  rw [load_inside (by simp [hp.cfg, ha]), Res.andThen_ok, hp.byteAt_raw]; exact hk

theorem memRead_painted {hi a n : Nat} {s t : State} {α : Type} {k : Nat → State → Res α} {Q : α → State → Prop}
    (hp : Painted hi s t) (ha : a + n ≤ s.cfg.rawCap)
    (hk : (k (t.le .raw a n) t).Sat Q (fun _ _ => False) (fun _ => False)) :
    ((memRead .raw a n t).andThen k).Sat Q (fun _ _ => False) (fun _ => False) := by
  rw [memRead_inside (by simp [hp.cfg, ha]), Res.andThen_ok]; exact hk

theorem store_painted {hi a : Nat} {s t : State} (v : Byte) (hp : Painted hi s t) (ha : a < hi)
    (hc : hi ≤ s.cfg.outCap) : Paints hi s (store .out a v t) := by
  rw [store_inside (by simp [hp.cfg]; omega)]
  refine hp.trans ⟨rfl, fun h => Mem.wf_put _ _ h, fun c hc => ?_, fun c hs => ?_, id, id, id, id⟩
  · exact Mem.get?_put_other _ _ _ _ (by omega)
  · by_cases h : c = a
    · subst h; simp [State.setMem, State.mem, Mem.get?_put_same]
    · simp only [State.setMem, State.mem]
      rw [Mem.get?_put_other _ _ _ _ h]; exact hs

/-- `put` writes four bytes of one pixel of the image (43_pixel_formats.md). -/
theorem put_painted {s t : State} {x y : Nat} (b g r a : Byte) (hp : Painted (s.w * s.h * 4) s t) (hx : x < s.w)
    (hy : y < s.h) (hc : s.w * s.h * 4 ≤ s.cfg.outCap) : Paints (s.w * s.h * 4) s (put x y b g r a t) := by
  have : y * s.w + x < s.w * s.h := by
    calc y * s.w + x < y * s.w + s.w := by omega
      _ = (y + 1) * s.w := by ring
      _ ≤ s.h * s.w := Nat.mul_le_mul_right _ hy
      _ = s.w * s.h := by ring
  unfold put
  simp only [hp.w]
  refine Res.Sat.andThen (store_painted _ hp (by omega) hc) fun _ t1 h1 => ?_
  refine Res.Sat.andThen (store_painted _ h1 (by omega) hc) fun _ t2 h2 => ?_
  refine Res.Sat.andThen (store_painted _ h2 (by omega) hc) fun _ t3 h3 => ?_
  exact store_painted _ h3 (by omega) hc

theorem putClipped_painted {s t : State} (x y : Nat) (b g r a : Byte) (hp : Painted (s.w * s.h * 4) s t)
    (hc : s.w * s.h * 4 ≤ s.cfg.outCap) : Paints (s.w * s.h * 4) s (putClipped x y b g r a t) := by
  unfold putClipped
  split
  · rename_i h
    rw [hp.w, hp.h] at h
    exact put_painted b g r a hp h.1 h.2 hc
  · exact hp

theorem forUp_painted {hi n a : Nat} {s t : State} {body : Nat → State → Res Unit} (hp : Painted hi s t)
    (hb : ∀ i u, a ≤ i → i < a + n → Painted hi s u → Paints hi s (body i u)) : Paints hi s (forUp n a body t) :=
  forUp_sat (fun _ u => Painted hi s u) n a hp hb

/-- The flat index of a tile is inside the grid. -/
theorem tile_index {tx ty cols rows : Nat} (hx : tx < cols) (hy : ty < rows) : tx + ty * cols + 1 ≤ cols * rows := by
  calc tx + ty * cols + 1 ≤ ty * cols + cols := by omega
    _ = (ty + 1) * cols := by ring
    _ ≤ rows * cols := Nat.mul_le_mul_right _ hy
    _ = cols * rows := by ring

/-! ## The routines -/

/-- Format 1 (43_pixel_formats.md R213). -/
theorem repackBgra4444_paints {s : State} (h1 : s.n ≤ s.cfg.rawCap) (h2 : 2 * s.n ≤ s.cfg.outCap) :
    Paints (2 * s.n) s (repackBgra4444 s) := by
  unfold repackBgra4444
  refine forUp_painted (Painted.refl _ s) fun i u _ hi hu => ?_
  refine load_painted hu (by omega) ?_
  refine Res.Sat.andThen (store_painted _ hu (by omega) h2) fun _ t1 h1 => ?_
  exact store_painted _ h1 (by omega) h2

/-- Formats 2 and 513 (43_pixel_formats.md R214, R216). -/
theorem repackCopy_paints {s : State} (h1 : s.n ≤ s.cfg.rawCap) (h2 : s.n ≤ s.cfg.outCap) :
    Paints s.n s (repackCopy s) := by
  unfold repackCopy
  refine forUp_painted (Painted.refl _ s) fun i u _ hi hu => ?_
  exact load_painted hu (by omega) (store_painted _ hu (by omega) h2)

/-- Format 3 (43_pixel_formats.md R215). -/
theorem repackTile4444_paints {s : State} (h1 : 2 * (ceil4 s.w * ceil4 s.h) ≤ s.cfg.rawCap)
    (h2 : s.w * s.h * 4 ≤ s.cfg.outCap) : Paints (s.w * s.h * 4) s (repackTile4444 s) := by
  unfold repackTile4444
  refine forUp_painted (Painted.refl _ s) fun ty u _ hty hu => ?_
  refine forUp_painted hu fun tx u _ htx hu => ?_
  have := tile_index (by simpa using htx) (by simpa using hty)
  refine load_painted hu (by omega) ?_
  refine load_painted hu (by omega) ?_
  unfold fillTile
  refine forUp_painted hu fun j u _ hj hu => ?_
  refine forUp_painted hu fun i u _ hj hu => ?_
  exact putClipped_painted _ _ _ _ _ _ hu h2

/-- Format 517 (43_pixel_formats.md R217). -/
theorem repackGray1x16_paints {s : State} (hn : 128 * s.n = s.w * s.h) (h1 : s.n ≤ s.cfg.rawCap)
    (h2 : s.w * s.h * 4 ≤ s.cfg.outCap) : Paints (s.w * s.h * 4) s (repackGray1x16 s) := by
  unfold repackGray1x16
  refine forUp_painted (Painted.refl _ s) fun q u _ hq hu => ?_
  refine forUp_painted hu fun j u _ hj hu => ?_
  refine load_painted hu (by omega) ?_
  refine forUp_painted hu fun k u _ hk hu => ?_
  unfold putGray
  refine Res.Sat.andThen (store_painted _ hu (by omega) h2) fun _ t1 p1 => ?_
  refine Res.Sat.andThen (store_painted _ p1 (by omega) h2) fun _ t2 p2 => ?_
  refine Res.Sat.andThen (store_painted _ p2 (by omega) h2) fun _ t3 p3 => ?_
  exact store_painted _ p3 (by omega) h2

/-- The alpha part of a block (44_dxt.md R247 to R250). -/
theorem loadAlpha_paints {hi off : Nat} {s t : State} (hp : Painted hi s t) (dxt5 : Bool)
    (ho : off + 16 ≤ s.cfg.rawCap) : Paints hi s (if dxt5 then loadAlphaDxt5 off t else loadAlphaDxt3 off t) := by
  split
  · unfold loadAlphaDxt5
    refine Res.Sat.andThen (Q := fun _ t => Painted hi s t) ?_ fun _ t1 p1 => ?_
    · unfold loadAlphaTable
      refine load_painted hp (by omega) ?_
      refine load_painted hp (by omega) ?_
      exact hp.tables rfl id id (fun h => by simp [h]) id
    · unfold loadAlphaIndices
      refine forUp_painted p1 fun g u _ hg hu => ?_
      refine memRead_painted hu (by omega) ?_
      refine forUp_painted hu fun j u _ hj hu => ?_
      refine hu.tables rfl id id id fun h => ⟨by simp [h.1], fun k hk => ?_⟩
      rcases List.mem_or_eq_of_mem_set hk with hk | rfl
      · exact h.2 k hk
      · omega
  · unfold loadAlphaDxt3
    refine forUp_painted hp fun m u _ hm hu => ?_
    refine load_painted hu (by omega) ?_
    exact hu.tables rfl id id (fun h => by simp [h]) id

/-- One block (44_dxt.md R241). -/
theorem dxtBlock_paints {s t : State} (hp : Painted (s.w * s.h * 4) s t) (dxt5 : Bool) (col row off : Nat)
    (ho : off + 16 ≤ s.cfg.rawCap) (h2 : s.w * s.h * 4 ≤ s.cfg.outCap) :
    Paints (s.w * s.h * 4) s (dxtBlock dxt5 col row off t) := by
  unfold dxtBlock
  refine Res.Sat.andThen (loadAlpha_paints hp dxt5 ho) fun _ t1 p1 => ?_
  refine Res.Sat.andThen (Q := fun _ t => Painted (s.w * s.h * 4) s t) ?_ fun _ t2 p2 => ?_
  · unfold loadColours
    refine memRead_painted p1 (by omega) ?_
    refine memRead_painted p1 (by omega) ?_
    exact p1.tables rfl (fun _ => by simp [colourTable]) id id id
  refine Res.Sat.andThen (Q := fun _ t => Painted (s.w * s.h * 4) s t) ?_ fun _ t3 p3 => ?_
  · unfold loadColourIndices
    refine forUp_painted p2 fun j u _ hj hu => ?_
    refine forUp_painted hu fun i u _ hi hu => ?_
    refine load_painted hu (by omega) ?_
    refine hu.tables rfl id (fun h => ⟨by simp [h.1], fun k hk => ?_⟩) id id
    rcases List.mem_or_eq_of_mem_set hk with hk | rfl
    · exact h.2 k hk
    · omega
  · unfold writeBlock
    refine forUp_painted p3 fun j u _ hj hu => ?_
    refine forUp_painted hu fun i u _ hi hu => ?_
    exact putClipped_painted _ _ _ _ _ _ hu h2

/-- Formats 1026 and 2050 (44_dxt.md R241). -/
theorem dxtImage_paints {s : State} (dxt5 : Bool) (h1 : 16 * (ceil4 s.w * ceil4 s.h) ≤ s.cfg.rawCap)
    (h2 : s.w * s.h * 4 ≤ s.cfg.outCap) : Paints (s.w * s.h * 4) s (dxtImage dxt5 s) := by
  unfold dxtImage
  refine forUp_painted (Painted.refl _ s) fun ty u _ hty hu => ?_
  refine forUp_painted hu fun tx u _ htx hu => ?_
  have := tile_index (by simpa using htx) (by simpa using hty)
  exact dxtBlock_paints hu _ _ _ _ (by omega) h2

end Sys2Proof.Machine
end

