-- ==== Sys2Proof/Laws/Step.lean ====
section
/-! SUPPORT. Whose turn it is: how a step begins. -/

namespace Sys2Proof.Machine

/-- In the engine's turn the next action is the sequencer's. -/
theorem fetch_engineTurn {s : State} (h : s.engineTurn = true) : fetch s = nextAction s := by
  unfold State.engineTurn at h
  unfold fetch
  simp only [Bool.and_eq_true] at h
  obtain ⟨hr, hh⟩ := h
  split <;> rename_i hq
  · rfl
  · rw [hq] at hh
    split
    · simp at hh
    · simp at hh
    · simp [hr]

/-- In the host's turn the next action is its oldest move. -/
theorem fetch_hostTurn {s : State} {m : HostMove} {rest : List HostMove} (h : s.hostTurn m rest) :
    fetch s = hostMove m { s with host := rest } := by
  obtain ⟨hr, hh⟩ := h
  unfold fetch
  rw [hh]
  cases m <;> simp [hr]

/-- Reset and the `STATUS` read go first whatever the engine is doing. -/
theorem fetch_urgent {s : State} {m : HostMove} {rest : List HostMove} (hm : m = .pollStatus ∨ m = .reset)
    (hh : s.host = m :: rest) : fetch s = hostMove m { s with host := rest } := by
  unfold fetch
  rw [hh]
  rcases hm with rfl | rfl <;> rfl

/-- A step, from what the fetch comes to. -/
theorem step_ok_some {s t : State} {i : Instr} (h : fetch s = .ok (some i) t) : step s = exec i t := by
  simp [step, h]

theorem step_ok_none {s t : State} (h : fetch s = .ok none t) : step s = .next t := by simp [step, h]

theorem step_err {s t : State} {e : ErrCode} (h : fetch s = .err e t) : step s = .next (takeError e t) := by
  simp [step, h]

/-- The instruction a value selects is the one to run. -/
theorem select_ok {f : Format} {v : Nat} {i : Instr} {s : State} (h : decode f v = .ok i) :
    select f v s = .ok (some i) s := by simp [select, h]

end Sys2Proof.Machine
end

