-- ==== Sys2Proof/Tests/Slice0.lean ====
section
/-! SUPPORT. The model's own tests: ill-formed terms, every row's value written out from 30_encoding.md, one step of each
row on the spec's worked examples and vectors (95_test_vectors.md), and a witness for the hypotheses of each statement. -/

namespace Sys2Proof.Tests

open Sys2Proof.Machine

set_option Elab.async false

/-! ## Well-formedness -/

theorem test_supported_code_is_ill_formed : WellFormed (.unsupported 1026) = false := by decide
theorem test_34_bit_code_is_ill_formed : WellFormed (.unsupported (2 ^ 33)) = false := by decide
theorem test_plain_header_is_ill_formed_as_obf : WellFormed (.obf 0x9C78) = false := by decide
theorem test_litlen_285_is_ill_formed_as_invalid : WellFormed (.litlenInvalid 285) = false := by decide
theorem test_dist_29_is_ill_formed_as_invalid : WellFormed (.distInvalid 29) = false := by decide
theorem test_code_length_16_is_ill_formed : WellFormed (.cl0to15 16) = false := by decide

/-! ## Decoding: every constructor, its value written out from 30_encoding.md -/

/-- The value selects the instruction, and the instruction is written back as it. -/
def selects (f : Format) (x : Nat × Instr) : Bool :=
  match decode f x.1 with
  | .ok i => i == x.2 && encode i == (f, x.1) && WellFormed i
  | .error _ => false

/-- Bits 1:0 of a `CTRL` write (R91). -/
theorem test_decode_cmd :
    [(0b00, .nop), (0b01, .start), (0b10, .clear), (0b11, .clearStart)].all (selects .cmd) = true := by decide

/-- The format codes (R108), the source's example 999, and the sum `2^32 + 2` of vector X21. -/
theorem test_decode_fmt :
    [(0x001, .bgra4444), (0x002, .bgra8888), (0x003, .tile4444), (0x201, .rgb565), (0x205, .gray1x16),
      (0x402, .dxt3), (0x802, .dxt5), (999, .unsupported 999), (0x100000002, .unsupported 0x100000002)].all
      (selects .fmt) = true := by decide

/-- The four header values (R95), and the byte-swapped `9C 78` of vector CF7. -/
theorem test_decode_hdr16 :
    [(0x0178, .plain0178), (0x5E78, .plain5E78), (0x9C78, .plain9C78), (0xDA78, .plainDA78),
      (0x789C, .obf 0x789C)].all (selects .hdr16) = true := by decide

/-- `BTYPE` (R98). -/
theorem test_decode_blkhdr :
    [(0b00, .stored), (0b01, .fixed), (0b10, .dynamic), (0b11, .btypeReserved)].all (selects .blkhdr) = true := by
  decide

/-- The literal/length symbols (R101, R102). -/
theorem test_decode_litlen :
    [(0, .lit 0x00), (255, .lit 0xFF), (256, .eob), (257, .len257), (258, .len258), (259, .len259), (260, .len260),
      (261, .len261), (262, .len262), (263, .len263), (264, .len264), (265, .len265), (266, .len266), (267, .len267),
      (268, .len268), (269, .len269), (270, .len270), (271, .len271), (272, .len272), (273, .len273), (274, .len274),
      (275, .len275), (276, .len276), (277, .len277), (278, .len278), (279, .len279), (280, .len280), (281, .len281),
      (282, .len282), (283, .len283), (284, .len284), (285, .len285), (286, .litlenInvalid 286),
      (287, .litlenInvalid 287)].all (selects .litlen) = true := by decide +kernel

/-- The distance symbols (R103). -/
theorem test_decode_dist :
    [(0, .dist0), (1, .dist1), (2, .dist2), (3, .dist3), (4, .dist4), (5, .dist5), (6, .dist6), (7, .dist7),
      (8, .dist8), (9, .dist9), (10, .dist10), (11, .dist11), (12, .dist12), (13, .dist13), (14, .dist14),
      (15, .dist15), (16, .dist16), (17, .dist17), (18, .dist18), (19, .dist19), (20, .dist20), (21, .dist21),
      (22, .dist22), (23, .dist23), (24, .dist24), (25, .dist25), (26, .dist26), (27, .dist27), (28, .dist28),
      (29, .dist29), (30, .distInvalid 30), (31, .distInvalid 31)].all (selects .dist) = true := by decide +kernel

/-- The code-length symbols (R104). -/
theorem test_decode_clsym :
    [(0, .cl0to15 0), (15, .cl0to15 15), (16, .cl16), (17, .cl17), (18, .cl18)].all (selects .clsym) = true := by
  decide

/-- Values outside a format's value space, each refused under its own name. -/
theorem test_decode_refuses :
    decode .cmd (2 ^ 32) = .error (.cmdTooWide (2 ^ 32)) ∧ decode .fmt (2 ^ 33) = .error (.fmtTooWide (2 ^ 33)) ∧
      decode .hdr16 (2 ^ 16) = .error (.hdrTooWide (2 ^ 16)) ∧ decode .blkhdr 4 = .error (.btypeTooWide 4) ∧
      decode .litlen 288 = .error (.notALitLenSymbol 288) ∧ decode .dist 32 = .error (.notADistSymbol 32) ∧
      decode .clsym 19 = .error (.notAClSymbol 19) := ⟨rfl, rfl, rfl, rfl, rfl, rfl, rfl⟩

/-! ## Placing and running: a row of each format is the next step's instruction (log 3, log 4) -/

/-- The step of a placed value runs its instruction, on whatever state the fetch leaves. -/
def fetches (f : Format) (v : Nat) (i : Instr) : Bool :=
  match fetch (placeValue f v State.reset) with
  | .ok (some j) _ => j == i
  | _ => false

theorem test_placed_values_are_fetched :
    fetches .cmd 1 .start && fetches .fmt 0x802 .dxt5 && fetches .fmt (2 ^ 32 + 254) (.unsupported (2 ^ 32 + 254)) &&
      fetches .hdr16 0x9C78 .plain9C78 && fetches .hdr16 0 (.obf 0) && fetches .blkhdr 2 .dynamic &&
      fetches .litlen 285 .len285 && fetches .litlen 0 (.lit 0) && fetches .dist 31 (.distInvalid 31) &&
      fetches .clsym 18 .cl18 = true := by decide +kernel

/-! ## Helpers for one-step tests -/

/-- Bytes written to a buffer from index `a` on. -/
def fill (b : Buf) (a : Nat) (bytes : List Byte) (s : State) : State :=
  (bytes.zipIdx a).foldl (fun t x => t.setMem b ((t.mem b).put x.2 x.1)) s

/-- What is asked of the next state, if there is one. -/
def after {α : Type} (o : Host.Outcome State Fault Refusal) (f : State → α) : Option α :=
  match o with
  | .next t => some (f t)
  | _ => none

/-- The four registers and the phase that tell how a decode stands. -/
def outcome (t : State) : Word × Word × Word × Word × Phase := (t.status, t.err, t.outLen, t.outFmt, t.phase)

/-- The bytes written to a buffer, lowest index first. -/
def bytesOf (b : Buf) (t : State) : List Byte := (t.mem b).map (·.2)

/-- A decode at its start, its blob in `IN`. -/
def fetching (bytes : List Byte) : State :=
  { fill .inB 0 bytes State.reset with status := 1, phase := .fetch, inLen := BitVec.ofNat 32 bytes.length }

/-- A decode of the given payload in a phase after DISPATCH. -/
def framed (ph : Phase) (payload : List Byte) : State :=
  { fill .inB 5 payload State.reset with status := 1, phase := ph, p := payload.length }

/-- INFLATE at the first data bit of the plain stream `78 9C ‖ data`, `n` bytes wanted. -/
def inflating (sub : InflateSub) (data : List Byte) (n : Nat) : State :=
  { framed .inflate (0x78 :: 0x9C :: data) with sub := sub, zLen := data.length + 2, bitPos := 16, n := n }

/-- REPACK of the raw bytes. -/
def repacking (fmt : Nat) (w h : Word) (raw : List Byte) : State :=
  { fill .raw 0 raw State.reset with
    status := 1, phase := .repack, fmt := fmt, width := w, height := h, n := raw.length, rawPos := raw.length }

/-- DISPATCH of a format code and dimensions. -/
def dispatching (fmt w h : Word) : State :=
  { State.reset with status := 1, phase := .dispatch, fmtPri := fmt, width := w, height := h }

/-- The same bytes `k` times. -/
def times (k : Nat) (l : List Byte) : List Byte := (List.replicate k l).flatten

/-! ## Commands -/

/-- R121's example starts so. -/
theorem test_start :
    after (exec .start { State.reset with status := 20, err := 7 }) outcome = some (1, 0, 0, 0, .fetch) := by
  decide +kernel

/-- R122's example: in ERROR with `ERR = 2`. -/
theorem test_clear :
    after (exec .clear { State.reset with status := 4, err := 2, phase := .error, width := 2 })
      (fun t => (outcome t, t.width)) = some ((0, 0, 0, 0, .idle), 2) := by decide +kernel

/-- R123: neither bit set, and bits 31:2 ignored. -/
theorem test_nop :
    after (step { State.reset with host := [.writeReg 0 0xFFFFFFFC], status := 2, phase := .done, outLen := 8 })
      (fun t => (outcome t, t.host)) = some ((2, 0, 8, 0, .done), []) := by decide +kernel

/-- R123: both bits set. -/
theorem test_clearStart :
    after (step { State.reset with host := [.writeReg 0 3], status := 2, phase := .done, outLen := 8 }) outcome =
      some (1, 0, 0, 0, .fetch) := by decide +kernel

/-! ## FETCH (vectors F4, F7, F8, F10, F12) -/

theorem test_fetch_empty :
    after (step (fetching [0x01, 0, 0, 0, 0])) outcome = some (10, 0, 0, 0, .done) := by decide +kernel
theorem test_fetch_most_negative_length :
    after (step (fetching [0, 0, 0, 0x80, 0])) outcome = some (10, 0, 0, 0, .done) := by decide +kernel
theorem test_fetch_short_window :
    after (step (fetching [0x10, 0, 0, 0])) outcome = some (4, 1, 0, 0, .error) := by decide +kernel
theorem test_fetch_window_one_byte_short :
    after (step (fetching [3, 0, 0, 0, 0, 0x78])) outcome = some (4, 1, 0, 0, .error) := by decide +kernel
theorem test_fetch_capacity_first :
    after (step { fetching [0x10, 0, 0, 0] with cfg := { Config.standard with inCap := 3 } }) outcome =
      some (4, 4, 0, 0, .error) := by decide +kernel

/-! ## Formats: DISPATCH (R126's example, vectors X17, X20, X21, X26) -/

theorem test_dispatch_sizes :
    [(1, 2, 1, 4), (2, 1, 2, 8), (3, 5, 2, 4), (513, 2, 1, 4), (517, 32, 4, 1), (1026, 8, 4, 32), (2050, 4, 4, 16)].all
      (fun x => after (step (dispatching x.1 x.2.1 x.2.2.1)) (fun t => (t.n, t.phase)) = some (x.2.2.2, .classify)) =
      true := by decide +kernel
theorem test_dispatch_capacity :
    after (step (dispatching 2 65536 65536)) outcome = some (4, 4, 0, 0, .error) := by decide +kernel
theorem test_dispatch_dimensions :
    [(517, 10, 10), (1026, 6, 4), (2050, 4, 2)].all
      (fun x => after (step (dispatching x.1 x.2.1 x.2.2)) outcome = some (4, 3, 0, 0, .error)) = true := by
  decide +kernel
theorem test_unsupported :
    after (step (dispatching 999 1 1)) outcome = some (4, 2, 0, 0, .error) ∧
      after (step { dispatching 0xFFFFFFFF 1 1 with fmtSec := 3 }) outcome = some (4, 2, 0, 0, .error) := by
  decide +kernel

/-! ## Formats: REPACK -/

/-- Vector X1. -/
theorem test_bgra4444 :
    after (step (repacking 1 2 1 [0xF0, 0x0F, 0x12, 0x34])) (fun t => (outcome t, bytesOf .out t)) =
      some ((2, 0, 8, 0, .done), [0x00, 0xFF, 0xFF, 0x00, 0x22, 0x11, 0x44, 0x33]) := by decide +kernel

/-- Vector X3. -/
theorem test_bgra8888 :
    after (step (repacking 2 1 2 [1, 2, 3, 4, 5, 6, 7, 8])) (fun t => (outcome t, bytesOf .out t)) =
      some ((2, 0, 8, 0, .done), [1, 2, 3, 4, 5, 6, 7, 8]) := by decide +kernel

/-- Vector X14: two tiles, the second clipped to one column. -/
theorem test_tile4444 :
    after (step (repacking 3 5 2 [0x21, 0xF3, 0x00, 0xF0])) (fun t => (outcome t, bytesOf .out t)) =
      some ((2, 0, 40, 0, .done), times 2 (times 4 [0x11, 0x22, 0x33, 0xFF] ++ [0x00, 0x00, 0x00, 0xFF])) := by
  decide +kernel

/-- Vector X4. -/
theorem test_rgb565 :
    after (step (repacking 513 2 1 [0xFF, 0xFF, 0x00, 0xF8])) (fun t => (outcome t, bytesOf .out t)) =
      some ((2, 0, 4, 1, .done), [0xFF, 0xFF, 0x00, 0xF8]) := by decide +kernel

/-- Vector X16, run 1 white: the first pixel, its alpha, and the first byte of pixel 16. -/
theorem test_gray1x16 :
    after (step (repacking 517 8 16 [0x40])) (fun t => [0, 3, 64].map (t.mem .out).get?) =
      some [some 0x00, some 0xFF, some 0xFF] := by decide +kernel

/-- Vector X11, the worked example of 44_dxt.md R254. -/
theorem test_dxt3 :
    after (step (repacking 1026 4 4
      [0xFF, 0xFF, 0xFF, 0xFF, 0xFF, 0xFF, 0xFF, 0xFF, 0x00, 0xF8, 0x1F, 0x00, 0x00, 0x55, 0xAA, 0xFF])) (bytesOf .out) =
      some (times 4 [0x00, 0x00, 0xFF, 0xFF] ++ times 4 [0xFF, 0x00, 0x00, 0xFF] ++ times 4 [0x55, 0x00, 0xAA, 0xFF] ++
        times 4 [0xAA, 0x00, 0x55, 0xFF]) := by decide +kernel

/-- Rows 0 and 1 of vector X10, where the alpha endpoints are in the six-entry order. -/
theorem test_dxt5_six_entries :
    after (step (repacking 2050 4 4
      [0x40, 0x80, 0xD1, 0xFA, 0xB5, 0x49, 0x24, 0x92, 0x00, 0x00, 0xFF, 0xFF, 0x1B, 0x1B, 0x1B, 0x1B]))
      (fun t => (bytesOf .out t).take 32) =
      some [0xAA, 0xAA, 0xAA, 0x80, 0x55, 0x55, 0x55, 0x4D, 0xFF, 0xFF, 0xFF, 0x5A, 0x00, 0x00, 0x00, 0x73,
        0xAA, 0xAA, 0xAA, 0xFF, 0x55, 0x55, 0x55, 0x5A, 0xFF, 0xFF, 0xFF, 0x73, 0x00, 0x00, 0x00, 0x73] := by
  decide +kernel

/-- The alpha table of vector X23, the worked example of 44_dxt.md R255: the eight-entry order. -/
theorem test_dxt5_eight_entries :
    after (step (repacking 2050 4 4
      [0xFF, 0x00, 0x88, 0xC6, 0xFA, 0x88, 0xC6, 0xFA, 0xE0, 0x07, 0xE0, 0x07, 0x00, 0x00, 0x00, 0x00]))
      (fun t => t.alphaTab.take 8) = some [0xFF, 0x00, 0xDB, 0xB6, 0x92, 0x6D, 0x49, 0x24] := by decide +kernel

/-! ## Headers: CLASSIFY and STRIP -/

/-- Vectors CF1 to CF4. -/
theorem test_classify_plain :
    [0x01, 0x5E, 0x9C, 0xDA].all
      (fun b => after (step (framed .classify [0x78, b])) (fun t => (outcome t, t.sub)) =
        some ((1, 0, 0, 0, .inflate), .entry)) = true := by decide +kernel

/-- Vectors CF5 to CF8. -/
theorem test_classify_obf :
    [[0x78, 0x9D], [0x78, 0x00], [0x9C, 0x78]].all
      (fun l => after (step (framed .classify l)) outcome = some (17, 0, 0, 0, .strip)) = true ∧
      after (step (framed .classify [0x78])) outcome = some (4, 5, 0, 0, .error) := by decide +kernel

/-- The first record of the example of 41_framing.md R144, and its second. -/
theorem test_strip_records :
    after (step (fill .key 0 [0xAA, 0xBB, 0xCC, 0xDD]
      (framed .strip [2, 0, 0, 0, 0xD2, 0x27, 3, 0, 0, 0, 0xA9, 0xBB, 0xCD])))
      (fun t => (t.inPos, t.rbLen, bytesOf .rb t)) = some (6, 2, [0x78, 0x9C]) ∧
    after (step { fill .key 0 [0xAA, 0xBB, 0xCC, 0xDD]
      (framed .strip [2, 0, 0, 0, 0xD2, 0x27, 3, 0, 0, 0, 0xA9, 0xBB, 0xCD]) with inPos := 6, rbLen := 2 })
      (fun t => (t.inPos, t.rbLen, t.rb)) = some (13, 5, [(2, 0x03), (3, 0x00), (4, 0x01)]) := by decide +kernel

/-- Vectors ST3, ST6, ST7 at the record that raises. -/
theorem test_strip_raises :
    [framed .strip [1, 0, 0], framed .strip [0xFF, 0xFF, 0xFF, 0xFF, 0xD2],
      { framed .strip [1, 0, 0, 0, 0xD2] with cfg := { Config.standard with keyLen := 0 } }].map
      (fun s => after (step s) (·.err)) = [some 5, some 5, some 6] := by decide +kernel

/-- A PLAIN row outside `ZLIB_HDR_SET` is obfuscated framing as any other: the parameter decides. -/
theorem test_plain_rows_follow_the_parameter :
    [Instr.plain0178, .plain5E78, .plain9C78, .plainDA78, .obf 0].all
      (fun i => after (exec i { framed .classify [0, 0] with cfg := { Config.standard with hdrSet := [] } }) outcome =
        some (17, 0, 0, 0, .strip)) = true := by decide +kernel

/-! ## Blocks -/

/-- Vectors I1 and I4. -/
theorem test_stored :
    after (step (inflating .header [0x01, 0x04, 0x00, 0xFB, 0xFF, 0x11, 0x22, 0x33, 0x44] 2))
      (fun t => (bytesOf .raw t, t.rawPos, t.phase)) = some ([0x11, 0x22], 2, .repack) ∧
    after (step (inflating .header [0x01, 0x04, 0x00, 0xFA, 0xFF, 0x11, 0x22, 0x33, 0x44] 4)) outcome =
      some (4, 8, 0, 0, .error) := by decide +kernel

/-- Vectors I7 and I3: the block over before the wanted count, not final and final. -/
theorem test_stored_ends_early :
    after (step (inflating .header [0x00, 0x02, 0x00, 0xFD, 0xFF, 0x11, 0x22, 0x07] 3))
      (fun t => (bytesOf .raw t, t.bitPos, t.sub)) = some ([0x11, 0x22], 72, .header) ∧
    after (step (inflating .header [0x01, 0x04, 0x00, 0xFB, 0xFF, 0x11, 0x22, 0x33, 0x44] 8)) outcome =
      some (4, 7, 0, 0, .error) := by decide +kernel

/-- Vector I12's header: `1|10`. -/
theorem test_fixed :
    after (step (inflating .header [0x73, 0x04, 0x00] 1))
      (fun t => (t.bfinal, t.btype, t.bitPos, t.sub, [t.llLen.getD 0x41 0, t.llLen.length, t.dLen.length])) =
      some (1, 1, 19, .litlen, [8, 288, 32]) := by decide +kernel

/-- The header of vector Y1, as program P3 spells it out. -/
theorem test_dynamic :
    after (step (inflating .header
      [0x05, 0xC0, 0x01, 0x09, 0, 0, 0, 0x80, 0xA0, 0x09, 0xFE, 0x7F, 0xD9, 0x84, 0x50, 0x06] 4))
      (fun t => (t.nlen, t.ndist, t.bitPos, t.sub, t.clLen)) =
      some (257, 1, 87, .codeLens, [2, 2, 2, 0, 0, 0, 0, 0, 0, 0, 0, 0, 0, 0, 0, 0, 0, 0, 2]) := by decide +kernel

/-- Vectors Y7, Y8 and Y9. -/
theorem test_dynamic_raises :
    [[0xF5, 0xC0, 0x01, 0x09, 0x00, 0x00, 0x00, 0x80, 0x20], [0x05, 0xDE, 0x01, 0x09, 0x00, 0x00, 0x00, 0x80, 0x20],
      [0x05, 0x00, 0x80, 0x00]].all
      (fun d => after (step (inflating .header d 4)) outcome = some (4, 8, 0, 0, .error)) = true := by decide +kernel

/-- Vector I10. -/
theorem test_btypeReserved :
    after (step (inflating .header [0x07] 1)) outcome = some (4, 8, 0, 0, .error) := by decide +kernel

/-! ## Symbols -/

/-- A FIXED block at its first symbol, `n` bytes wanted. -/
def fixedBlock (data : List Byte) (n : Nat) : State :=
  { inflating .litlen data n with bitPos := 19, bfinal := 1, llLen := fixedLitlenLens, dLen := fixedDistLens }

/-- Vector I12, its literal; I24, a 9-bit code. -/
theorem test_lit :
    after (step (fixedBlock [0x73, 0x04, 0x00] 1)) (fun t => (t.raw, t.rawPos, t.bitPos, t.phase)) =
      some ([(0, 0x41)], 1, 27, .repack) ∧
    after (step (fixedBlock [0xFB, 0x0F, 0x00] 2)) (fun t => (t.raw, t.rawPos, t.bitPos, t.phase)) =
      some ([(0, 0xFF)], 1, 28, .inflate) := by decide +kernel

/-- Vector I13, its end of block. -/
theorem test_eob :
    after (step { fixedBlock [0x73, 0x04, 0x00] 2 with bitPos := 27, rawPos := 1 }) outcome =
      some (4, 7, 0, 0, .error) ∧
    after (exec .eob { fixedBlock [0x73, 0x04, 0x00] 2 with bfinal := 0 }) (·.sub) = some .header := by decide +kernel

/-- 30_encoding.md R102's last column: the shortest and the longest length of each length symbol, with extra bits all 0
and all 1. -/
theorem test_length_ranges :
    [(Instr.len257, 3, 3), (.len258, 4, 4), (.len259, 5, 5), (.len260, 6, 6), (.len261, 7, 7), (.len262, 8, 8),
      (.len263, 9, 9), (.len264, 10, 10), (.len265, 11, 12), (.len266, 13, 14), (.len267, 15, 16), (.len268, 17, 18),
      (.len269, 19, 22), (.len270, 23, 26), (.len271, 27, 30), (.len272, 31, 34), (.len273, 35, 42), (.len274, 43, 50),
      (.len275, 51, 58), (.len276, 59, 66), (.len277, 67, 82), (.len278, 83, 98), (.len279, 99, 114),
      (.len280, 115, 130), (.len281, 131, 162), (.len282, 163, 194), (.len283, 195, 226), (.len284, 227, 258),
      (.len285, 258, 258)].all
      (fun x =>
        after (exec x.1 (inflating .litlen [0x00] 300)) (fun t => (t.matchLen, t.sub)) = some (x.2.1, .dist) &&
          after (exec x.1 (inflating .litlen [0xFF] 300)) (fun t => (t.matchLen, t.sub)) = some (x.2.2, .dist)) =
      true := by decide +kernel

/-- Vector I22. -/
theorem test_litlenInvalid :
    after (step { fixedBlock [0x8B, 0x1A, 0x03, 0x00] 259 with bitPos := 27, rawPos := 1 }) outcome =
      some (4, 8, 0, 0, .error) := by decide +kernel

/-- The last column of 30_encoding.md R103: with extra bits all 1 each distance symbol reaches back its longest distance and
not one byte further than the bytes produced, with extra bits all 0 its shortest. -/
theorem test_distance_ranges :
    [(Instr.dist0, 1, 1), (.dist1, 2, 2), (.dist2, 3, 3), (.dist3, 4, 4), (.dist4, 5, 6), (.dist5, 7, 8),
      (.dist6, 9, 12), (.dist7, 13, 16), (.dist8, 17, 24), (.dist9, 25, 32), (.dist10, 33, 48), (.dist11, 49, 64),
      (.dist12, 65, 96), (.dist13, 97, 128), (.dist14, 129, 192), (.dist15, 193, 256), (.dist16, 257, 384),
      (.dist17, 385, 512), (.dist18, 513, 768), (.dist19, 769, 1024), (.dist20, 1025, 1536), (.dist21, 1537, 2048),
      (.dist22, 2049, 3072), (.dist23, 3073, 4096), (.dist24, 4097, 6144), (.dist25, 6145, 8192),
      (.dist26, 8193, 12288), (.dist27, 12289, 16384), (.dist28, 16385, 24576), (.dist29, 24577, 32768)].all
      (fun x =>
        [((0x00 : Byte), x.2.1), (0xFF, x.2.2)].all fun y =>
          after (exec x.1 { inflating .dist [y.1, y.1] 40000 with rawPos := y.2, matchLen := 3 }) (·.rawPos) =
              some (y.2 + 3) &&
            after (exec x.1 { inflating .dist [y.1, y.1] 40000 with rawPos := y.2 - 1, matchLen := 3 }) (·.err) =
              some 8) =
      true := by decide +kernel

/-- Vectors I15 and I16, their matches: an overlapping copy, and the stop inside one. -/
theorem test_match :
    after (step { fill .raw 0 [0x41] (fixedBlock [0x73, 0x04, 0x02, 0x00] 4) with
        sub := .dist, rawPos := 1, matchLen := 3, bitPos := 34 }) (fun t => (bytesOf .raw t, t.phase, t.bitPos)) =
      some ([0x41, 0x41, 0x41, 0x41], .repack, 39) ∧
    after (step { fill .raw 0 [0x41] (fixedBlock [0x73, 0x04, 0x02, 0x00] 3) with
        sub := .dist, rawPos := 1, matchLen := 3, bitPos := 34 }) (fun t => (bytesOf .raw t, t.phase)) =
      some ([0x41, 0x41, 0x41], .repack) := by decide +kernel

/-- Vector I23. -/
theorem test_distInvalid :
    after (step { fixedBlock [0x8B, 0x02, 0x3E, 0x00] 4 with sub := .dist, rawPos := 1, matchLen := 3, bitPos := 33 })
      outcome = some (4, 8, 0, 0, .error) := by decide +kernel

/-! ## Code lengths -/

/-- Reading the code lengths of vector Y1, `lens` of them read. -/
def codeLengths (lens : List Nat) (bitPos : Nat) : State :=
  { inflating .codeLens [0x05, 0xC0, 0x01, 0x09, 0, 0, 0, 0x80, 0xA0, 0x09, 0xFE, 0x7F, 0xD9, 0x84, 0x50, 0x06] 4 with
    clLen := [2, 2, 2, 0, 0, 0, 0, 0, 0, 0, 0, 0, 0, 0, 0, 0, 0, 0, 2], nlen := 257, ndist := 1, lens := lens
    bitPos := bitPos }

/-- The first two code-length symbols of program P3: symbol 18 with extra 4, and symbol 1. -/
theorem test_cl18_cl0to15 :
    after (step (codeLengths [] 87)) (fun t => (t.lens, t.bitPos)) = some (List.replicate 15 0, 96) ∧
      after (step (codeLengths (List.replicate 15 0) 96)) (fun t => (t.lens, t.bitPos)) =
        some (List.replicate 15 0 ++ [1], 98) := by decide +kernel

/-- 30_encoding.md R104: symbols 16 and 17 with extra bits all 1 (the bits 103 to 109 of program P3's stream are 1), and
symbol 16 first (vector Y5). -/
theorem test_cl16_cl17 :
    after (exec .cl16 (codeLengths [7] 103)) (fun t => (t.lens, t.bitPos)) = some (List.replicate 7 7, 105) ∧
      after (exec .cl17 (codeLengths [7] 103)) (fun t => (t.lens, t.bitPos)) = some (7 :: List.replicate 10 0, 106) ∧
      after (exec .cl16 (codeLengths [] 103)) outcome = some (4, 8, 0, 0, .error) := by decide +kernel

/-- A repeat past the end (vector Y6). -/
theorem test_repeat_past_the_end :
    after (exec .cl18 (codeLengths (List.replicate 248 0) 0)) outcome = some (4, 8, 0, 0, .error) := by decide +kernel

/-- The last symbol of program P3's description, and what vector Y2 lacks: a code for symbol 256. -/
theorem test_tables_built :
    after (exec (.cl0to15 0) (codeLengths ((((List.replicate 257 0).set 0x0F 1).set 0xF0 2).set 256 2) 0))
      (fun t => (t.sub, t.llLen.getD 0xF0 0, t.llLen.length, t.dLen)) =
      some (.litlen, 2, 288, List.replicate 32 0) ∧
    after (exec (.cl0to15 0) (codeLengths (((List.replicate 257 0).set 0x0F 1).set 0xF0 1) 0)) outcome =
      some (4, 8, 0, 0, .error) := by decide +kernel

/-! ## Witnesses: states and operands that meet the hypotheses of each statement -/

/-- An idle engine with one host move pending. -/
def asked (m : HostMove) : State := { State.reset with host := [m] }

/-- A state whose buffers are empty, with the parameters and the tables of reset, is well formed if its registers and its
phase are. -/
theorem inv_of_empty {s : State} (hcfg : s.cfg = Config.standard)
    (hbuf : s.inBuf = [] ∧ s.keyBuf = [] ∧ s.rb = [] ∧ s.raw = [] ∧ s.out = [])
    (htab : s.llLen = List.replicate 288 0 ∧ s.dLen = List.replicate 32 0 ∧ s.clLen = List.replicate 19 0 ∧
      s.ct = State.reset.ct ∧ s.cidx = List.replicate 16 0 ∧ s.alphaTab = List.replicate 16 0 ∧
      s.aidx = List.replicate 16 0 ∧ s.bfinal = 0 ∧ s.btype = 0)
    (hreg : s.fmtSec.toNat < 256 ∧ s.status ∈ s.phase.statusAllowed ∧
      (if s.phase = .error then 1 ≤ s.err.toNat ∧ s.err.toNat ≤ 8 else s.err = 0) ∧
      if s.phase = .done then s.outLen.toNat ≤ s.cfg.outCap ∧ s.outFmt.toNat ≤ 1 else s.outLen = 0 ∧ s.outFmt = 0)
    (hph : s.phaseFits) : s.Inv := by
  obtain ⟨b1, b2, b3, b4, b5⟩ := hbuf
  obtain ⟨t1, t2, t3, t4, t5, t6, t7, t8, t9⟩ := htab
  have hnil : ∀ b, s.mem b = [] := by intro b; cases b <;> assumption
  refine ⟨hcfg ▸ by decide, fun b => by rw [hnil]; rfl, fun b a _ => by rw [hnil]; rfl, hreg.1, hreg.2.1, hreg.2.2.1,
    hreg.2.2.2, fun _ => b5, ⟨?_, ?_, ?_, ?_, ?_, ?_, ?_, by omega, by omega⟩, hph⟩
  · rw [t1]; decide +kernel
  · rw [t2]; decide +kernel
  · rw [t3]; decide +kernel
  · rw [t4]; decide +kernel
  · rw [t5]; decide +kernel
  · rw [t6]; decide +kernel
  · rw [t7]; decide +kernel

/-- The start of FETCH, nothing written. -/
def atFetch : State := { State.reset with status := 1, phase := .fetch }

/-- The start of REPACK of an image of no pixels. -/
def atRepack : State :=
  { State.reset with status := 1, phase := .repack, fmtPri := 2, fmt := 2, inLen := 6, p := 1 }

/-- The error state of 10_state.md R40. -/
def atError : State := { State.reset with status := 4, err := 1, phase := .error }

theorem witness_Inv_idle : (asked (.readReg 10)).Inv :=
  inv_of_empty rfl (by decide +kernel) (by decide +kernel) (by decide +kernel) trivial
theorem witness_Inv_fetch : atFetch.Inv :=
  inv_of_empty rfl (by decide +kernel) (by decide +kernel) (by decide +kernel) trivial
theorem witness_Inv_repack : atRepack.Inv := by
  refine inv_of_empty rfl (by decide +kernel) (by decide +kernel) (by decide +kernel) ?_
  simp only [State.phaseFits, State.payloadFits, State.formatFits, atRepack]
  decide +kernel
theorem witness_Inv_done : ({ State.reset with status := 10, phase := .done } : State).Inv :=
  inv_of_empty rfl (by decide +kernel) (by decide +kernel) (by decide +kernel) trivial
theorem witness_Inv_error : atError.Inv :=
  inv_of_empty rfl (by decide +kernel) (by decide +kernel) (by decide +kernel) trivial

theorem witness_DecodeOfEncode : WellFormed (.unsupported (2 ^ 33 - 1)) = true ∧ WellFormed (.obf 0) = true := by decide
theorem witness_EncodeOfDecode : decode .cmd 0xFFFFFFFC = .ok .nop ∧ decode .dist 31 = .ok (.distInvalid 31) :=
  ⟨rfl, rfl⟩

theorem witness_StepRunsDecoded_command :
    (asked (.writeReg 0 1)).hostTurn (.writeReg 0 1) [] ∧ decode .cmd (1 : Word).toNat = .ok .start :=
  ⟨⟨rfl, rfl⟩, rfl⟩
theorem witness_StepRunsDecoded_dispatch :
    (dispatching 2 1 1).engineTurn = true ∧ (dispatching 2 1 1).phase = .dispatch ∧
      decode .fmt (dispatching 2 1 1).effectiveFmt = .ok .bgra8888 := ⟨rfl, rfl, rfl⟩
theorem witness_StepRunsDecoded_header :
    let s := framed .classify [0x78, 0x9C]
    let t := framed .strip [0, 0]
    s.engineTurn = true ∧ s.phase = .classify ∧ 2 ≤ s.p ∧ 7 ≤ s.cfg.inCap ∧
      decode .hdr16 (s.le .inB 5 2) = .ok .plain9C78 ∧
      t.engineTurn = true ∧ t.phase = .strip ∧ decode .hdr16 (t.le .inB 5 2) = .ok (.obf 0) :=
  ⟨rfl, rfl, by decide, by decide, rfl, rfl, rfl, rfl⟩
theorem witness_StepRunsDecoded_block :
    let s := inflating .header [0x07] 1
    s.engineTurn = true ∧ s.phase = .inflate ∧ s.sub = .header ∧ s.zInside ∧ s.bitPos + 3 ≤ 8 * s.zLen ∧
      decode .blkhdr (s.zField (s.bitPos + 1) 2) = .ok .btypeReserved := by
  refine ⟨rfl, rfl, rfl, ?_, by decide +kernel, rfl⟩
  unfold State.zInside; decide +kernel
/-- The operation is complete with this value and state. -/
def completes (r : Res Nat) (v : Nat) (t : State) : Bool :=
  match r with
  | .ok a u => a == v && u == t
  | _ => false

theorem eq_ok_of_completes {r : Res Nat} {v : Nat} {t : State} (h : completes r v t = true) : r = .ok v t := by
  cases r <;> simp_all [completes]

theorem witness_StepRunsDecoded_symbol :
    let s := fixedBlock [0x73, 0x04, 0x00] 1
    let t := codeLengths [] 87
    let u := { fixedBlock [0x73, 0x04, 0x02, 0x00] 4 with sub := .dist, bitPos := 34 }
    s.engineTurn = true ∧ s.phase = .inflate ∧ s.sub = .litlen ∧
      readSymbol s.llLen s = .ok 0x41 { s with bitPos := 27 } ∧ decode .litlen 0x41 = .ok (.lit 0x41) ∧
      t.engineTurn = true ∧ t.phase = .inflate ∧ t.sub = .codeLens ∧
      readSymbol t.clLen t = .ok 18 { t with bitPos := 89 } ∧ decode .clsym 18 = .ok .cl18 ∧
      u.engineTurn = true ∧ u.phase = .inflate ∧ u.sub = .dist ∧
      readSymbol u.dLen u = .ok 0 { u with bitPos := 39 } ∧ decode .dist 0 = .ok .dist0 :=
  ⟨rfl, rfl, rfl, eq_ok_of_completes (by decide +kernel), rfl, rfl, rfl, rfl, eq_ok_of_completes (by decide +kernel), rfl,
    rfl, rfl, rfl, eq_ok_of_completes (by decide +kernel), rfl⟩
theorem witness_StepRunsDecoded_repack :
    atRepack.engineTurn = true ∧ atRepack.phase = .repack ∧ decode .fmt atRepack.fmt = .ok .bgra8888 := ⟨rfl, rfl, rfl⟩

theorem witness_SymbolOfIsCanonical : symbolOf [1, 2, 2] 2 0b11 = some 2 ∧ codeword [1, 2, 2] 2 = 0b11 := by decide

/-- A code with a codeword of every length to 15, and two of 15 bits. -/
def longCode : List Nat := [1, 2, 3, 4, 5, 6, 7, 8, 9, 10, 11, 12, 13, 14, 15, 15]

theorem witness_HuffmanDecode_longest :
    let s := inflating .litlen [0xFF, 0xFF] 1
    (∀ l ∈ longCode, l ≤ 15) ∧ kraft longCode ≤ 2 ^ 15 ∧ 15 < longCode.length ∧ longCode.getD 15 0 = 15 ∧ s.zInside ∧
      s.bitPos + 15 ≤ 8 * s.zLen ∧ s.zBitsAre s.bitPos (msbFirst 15 (codeword longCode 15)) := by
  refine ⟨by decide, by decide, by decide, by decide, ?_, by decide +kernel, ?_⟩
  · unfold State.zInside; decide +kernel
  · rw [show msbFirst 15 (codeword longCode 15) = List.replicate 15 true by decide +kernel]
    simp only [List.replicate, State.zBitsAre]; decide +kernel
theorem witness_HuffmanDecode_one_symbol :
    let s := inflating .dist [0x00] 1
    (∀ l ∈ [0, 1], l ≤ 15) ∧ kraft [0, 1] ≤ 2 ^ 15 ∧ [0, 1].getD 1 0 ≠ 0 ∧ s.zInside ∧
      s.bitPos + [0, 1].getD 1 0 ≤ 8 * s.zLen ∧ s.zBitsAre s.bitPos (msbFirst ([0, 1].getD 1 0) (codeword [0, 1] 1)) := by
  refine ⟨by decide, by decide, by decide, ?_, by decide +kernel, ?_⟩
  · unfold State.zInside; decide +kernel
  · rw [show msbFirst ([0, 1].getD 1 0) (codeword [0, 1] 1) = [false] by decide +kernel]
    simp only [State.zBitsAre]; decide +kernel

theorem witness_ResetState : ({ framed .inflate [0x78] with host := [.reset, .readReg 1] } : State).host =
    .reset :: [.readReg 1] := rfl
theorem witness_Start : State.reset.busy = false ∧ atError.busy = false ∧
    ({ State.reset with status := 10, phase := .done } : State).busy = false := ⟨rfl, rfl, rfl⟩
theorem witness_Clear_idle : (asked (.readReg 10)).Inv ∧ (asked (.readReg 10)).phase = .idle := ⟨witness_Inv_idle, rfl⟩
theorem witness_CtrlWrite :
    (asked (.writeReg 0 0xFFFFFFFC)).hostTurn (.writeReg 0 0xFFFFFFFC) [] ∧
      (asked (.writeReg 0 0xFFFFFFFC)).busy = false ∧ (0xFFFFFFFC : Word).toNat % 4 = 0 ∧
      (asked (.writeReg 0 5)).hostTurn (.writeReg 0 5) [] ∧ (5 : Word).toNat % 4 = 1 ∧
      (asked (.writeReg 0 2)).hostTurn (.writeReg 0 2) [] ∧ (2 : Word).toNat % 4 = 2 ∧
      (asked (.writeReg 0 0xFFFFFFFF)).hostTurn (.writeReg 0 0xFFFFFFFF) [] ∧ (0xFFFFFFFF : Word).toNat % 4 = 3 :=
  ⟨⟨rfl, rfl⟩, rfl, rfl, ⟨rfl, rfl⟩, rfl, ⟨rfl, rfl⟩, rfl, ⟨rfl, rfl⟩, rfl⟩
theorem witness_CommandWhileBusy : Instr.clearStart ∈ [Instr.nop, .start, .clear, .clearStart] ∧ atFetch.busy = true :=
  ⟨by decide, rfl⟩
theorem witness_HostMoves :
    (asked (.writeReg 6 0x1FF)).hostTurn (.writeReg 6 0x1FF) [] ∧
      (asked (.writeIn (2 ^ 20 - 1) 7)).hostTurn (.writeIn (2 ^ 20 - 1) 7) [] ∧
      2 ^ 20 - 1 < (asked (.writeIn (2 ^ 20 - 1) 7)).cfg.inCap ∧
      (asked (.writeKey 15 7)).hostTurn (.writeKey 15 7) [] ∧ 15 < (asked (.writeKey 15 7)).cfg.keyLen ∧
      (asked (.readReg 9)).hostTurn (.readReg 9) [] ∧
      (asked (.readOut (2 ^ 20 - 1))).hostTurn (.readOut (2 ^ 20 - 1)) [] ∧
      2 ^ 20 - 1 < (asked (.readOut (2 ^ 20 - 1))).cfg.outCap :=
  ⟨⟨rfl, rfl⟩, ⟨rfl, rfl⟩, by decide, ⟨rfl, rfl⟩, by decide, ⟨rfl, rfl⟩, ⟨rfl, rfl⟩, by decide⟩
theorem witness_StatusShowsPhase : ({ atFetch with host := [.pollStatus] } : State).Inv ∧
    ({ atFetch with host := [.pollStatus] } : State).host = .pollStatus :: [] :=
  ⟨inv_of_empty rfl (by decide +kernel) (by decide +kernel) (by decide +kernel) trivial, rfl⟩
theorem witness_FailedDecodeLeavesNoResult :
    atFetch.Inv ∧ atFetch.engineTurn = true ∧ step atFetch = .next (takeError .source atFetch) ∧
      (takeError .source atFetch).phase = .error := ⟨witness_Inv_fetch, rfl, rfl, rfl⟩

theorem witness_FetchBounds :
    let s := { atFetch with inLen := BitVec.ofNat 32 (2 ^ 20 + 1) }
    let t := { atFetch with inLen := 4 }
    s.engineTurn = true ∧ s.phase = .fetch ∧ s.cfg.inCap < s.inLen.toNat ∧
      t.engineTurn = true ∧ t.phase = .fetch ∧ t.inLen.toNat ≤ t.cfg.inCap ∧ t.inLen.toNat < 5 := by decide +kernel
theorem witness_FetchLength :
    let s := fetching [0x01, 0, 0, 0, 0]
    let t := fetching [0x02, 0, 0, 0, 0]
    let u := fetching [0x02, 0, 0, 0, 0, 0x78]
    s.engineTurn = true ∧ s.phase = .fetch ∧ 5 ≤ s.inLen.toNat ∧ s.inLen.toNat ≤ s.cfg.inCap ∧ s.lField ≤ 1 ∧
      t.engineTurn = true ∧ t.lField = (1 : Nat) + 1 ∧ t.inLen.toNat < 5 + 1 ∧
      u.engineTurn = true ∧ u.lField = (1 : Nat) + 1 ∧ 5 + 1 ≤ u.inLen.toNat ∧ u.inLen.toNat ≤ u.cfg.inCap :=
  ⟨rfl, rfl, by decide +kernel, by decide +kernel, by decide +kernel, rfl, by decide +kernel, by decide +kernel, rfl,
    by decide +kernel, by decide +kernel, by decide +kernel⟩
theorem witness_UnsupportedFormat :
    let s := { dispatching 0xFFFFFFFF 1 1 with fmtSec := 3 }
    s.engineTurn = true ∧ s.phase = .dispatch ∧
      s.fmtPri.toNat + s.fmtSec.toNat % 256 ∉ [1, 2, 3, 513, 517, 1026, 2050] := by decide +kernel

/-- One format, by its place in 43_pixel_formats.md R211, and dimensions for each of the three clauses. -/
theorem witness_DispatchSizes :
    (∀ f ∈ formatSpecs, (dispatching 2 16 8).phase = .dispatch ∧ f.fits 16 8 = true ∧
      f.raw 16 8 ≤ Config.standard.rawCap ∧ f.out 16 8 ≤ Config.standard.outCap) ∧
    (∀ f ∈ formatSpecs, f.fits 65536 65536 = true ∧ Config.standard.outCap < f.out 65536 65536) ∧
    (formatSpecs.map fun f => f.fits 10 10) = [true, true, true, true, false, false, false] := by
  refine ⟨?_, ?_, by decide +kernel⟩ <;> decide +kernel

theorem witness_Classification :
    let s := framed .classify [0x78]
    let t := framed .classify [0x78, 0x9C]
    let u := framed .classify [0x9C, 0x78]
    s.engineTurn = true ∧ s.phase = .classify ∧ s.p < 2 ∧
      t.engineTurn = true ∧ 2 ≤ t.p ∧ 5 + t.p ≤ t.cfg.inCap ∧
      BitVec.ofNat 16 ((t.byteAt .inB 5).toNat + 256 * (t.byteAt .inB 6).toNat) ∈ t.cfg.hdrSet ∧
      u.engineTurn = true ∧ 2 ≤ u.p ∧ 5 + u.p ≤ u.cfg.inCap ∧
      BitVec.ofNat 16 ((u.byteAt .inB 5).toNat + 256 * (u.byteAt .inB 6).toNat) ∉ u.cfg.hdrSet ∧
      t.cfg.hdrSet = Config.zlibHdrSet ∧ headerOf .plain9C78 = some 0x9C78 ∧ headerOf (.obf 0x789C) = some 0x789C ∧
      (0x9C78 : Half) ∈ t.cfg.hdrSet ∧ (0x789C : Half) ∉ t.cfg.hdrSet := by
  refine ⟨rfl, rfl, ?_, rfl, ?_, ?_, ?_, rfl, ?_, ?_, ?_, rfl, rfl, rfl, ?_, ?_⟩ <;> decide +kernel

/-- The record of 41_framing.md R144's example, and a record as long as the key. -/
theorem witness_StripRecord :
    let s := framed .strip [2, 0, 0, 0, 0xD2, 0x27]
    let t := framed .strip (16 :: List.replicate 19 0)
    headerOf (.obf 2) = some 2 ∧ s.phase = .strip ∧ 5 + s.p ≤ s.cfg.inCap ∧ s.inPos + 4 ≤ s.p ∧
      s.inPos + 4 + s.le .inB (5 + s.inPos) 4 ≤ s.p ∧ s.le .inB (5 + s.inPos) 4 ≤ s.cfg.keyLen ∧
      s.rbLen + s.le .inB (5 + s.inPos) 4 ≤ s.cfg.rbCap ∧
      t.inPos + 4 + t.le .inB (5 + t.inPos) 4 ≤ t.p ∧ t.le .inB (5 + t.inPos) 4 = t.cfg.keyLen := by
  refine ⟨rfl, rfl, ?_, ?_, ?_, ?_, ?_, ?_, ?_⟩ <;> decide +kernel
theorem witness_StripEndsOrRaises :
    let e := { framed .strip [2, 0, 0, 0, 0xD2, 0x27] with inPos := 6 }
    let s := framed .strip [1, 0, 0]
    let t := framed .strip [2, 0, 0, 0, 0xD2]
    let u := framed .strip (17 :: List.replicate 20 0)
    e.phase = .strip ∧ 5 + e.p ≤ e.cfg.inCap ∧ e.p ≤ e.inPos ∧
      s.inPos < s.p ∧ s.p < s.inPos + 4 ∧
      t.inPos + 4 ≤ t.p ∧ t.p < t.inPos + 4 + t.le .inB (5 + t.inPos) 4 ∧
      u.phase = .strip ∧ 5 + u.p ≤ u.cfg.inCap ∧ u.inPos + 4 + u.le .inB (5 + u.inPos) 4 ≤ u.p ∧
      u.cfg.keyLen < u.le .inB (5 + u.inPos) 4 ∧ u.rbLen + u.cfg.keyLen ≤ u.cfg.rbCap := by
  refine ⟨rfl, ?_, ?_, ?_, ?_, ?_, ?_, rfl, ?_, ?_, ?_, ?_⟩ <;> decide +kernel

theorem witness_InflateEntry :
    (framed .inflate [0x78, 0x9C]).engineTurn = true ∧ (framed .inflate [0x78, 0x9C]).phase = .inflate ∧
      (framed .inflate [0x78, 0x9C]).sub = .entry := ⟨rfl, rfl, rfl⟩

theorem witness_StreamExhausted_header :
    let s := { inflating .header [0x00] 1 with bitPos := 22 }
    s.engineTurn = true ∧ s.phase = .inflate ∧ s.sub = .header ∧ s.zInside ∧ 8 * s.zLen < s.bitPos + 3 := by
  refine ⟨rfl, rfl, rfl, ?_, by decide +kernel⟩
  unfold State.zInside; decide +kernel
theorem witness_StreamExhausted_symbol :
    let s := { fixedBlock [0x73] 1 with bitPos := 24 }
    s.engineTurn = true ∧ s.phase = .inflate ∧ s.sub = .litlen ∧ (∃ l ∈ s.llLen, l ≠ 0) ∧ 8 * s.zLen ≤ s.bitPos := by
  decide +kernel
/-- Vector I14, whose bits left are the first 5 of the codeword of `A`; all but the last bit of a 15-bit codeword. -/
theorem witness_StreamExhausted_codeword :
    let s := fixedBlock [0x73] 1
    let t := { inflating .dist [0xFF, 0xFF] 1 with dLen := longCode, bitPos := 18 }
    s.engineTurn = true ∧ s.phase = .inflate ∧ s.sub = .litlen ∧ (∀ l ∈ s.llLen, l ≤ 15) ∧ kraft s.llLen ≤ 2 ^ 15 ∧
      s.zInside ∧ s.bitPos + 5 = 8 * s.zLen ∧ 5 < s.llLen.getD 65 0 ∧
      s.zBitsAre s.bitPos ((msbFirst (s.llLen.getD 65 0) (codeword s.llLen 65)).take 5) ∧
      t.engineTurn = true ∧ t.phase = .inflate ∧ t.sub = .dist ∧ (∀ l ∈ t.dLen, l ≤ 15) ∧ kraft t.dLen ≤ 2 ^ 15 ∧
      t.zInside ∧ t.bitPos + 14 = 8 * t.zLen ∧ 14 < t.dLen.getD 15 0 ∧
      t.zBitsAre t.bitPos ((msbFirst (t.dLen.getD 15 0) (codeword t.dLen 15)).take 14) := by
  refine ⟨rfl, rfl, rfl, ?_, ?_, ?_, ?_, ?_, ?_, rfl, rfl, rfl, ?_, ?_, ?_, ?_, ?_, ?_⟩
  case refine_3 | refine_9 => unfold State.zInside; decide +kernel
  case refine_6 =>
    rw [show (msbFirst ((fixedBlock [0x73] 1).llLen.getD 65 0) (codeword (fixedBlock [0x73] 1).llLen 65)).take 5 =
      [false, true, true, true, false] by decide +kernel]
    simp only [State.zBitsAre]; decide +kernel
  case refine_12 =>
    rw [show (msbFirst (longCode.getD 15 0) (codeword longCode 15)).take 14 = List.replicate 14 true by decide +kernel]
    simp only [List.replicate, State.zBitsAre]; decide +kernel
  all_goals decide +kernel
theorem witness_StreamExhausted_extra_bits :
    let s := { inflating .litlen [0x00] 1 with bitPos := 20, lens := [8] }
    (Instr.len284, 284, 5, 227) ∈ lengthRows ++ distanceRows ∧ s.zInside ∧ 8 * s.zLen < s.bitPos + 5 ∧
      s.clAppends .cl18 = some (0, 11 + s.zField s.bitPos 7, 7) ∧ 8 * s.zLen < s.bitPos + 7 := by
  refine ⟨by decide +kernel, ?_, by decide +kernel, rfl, by decide +kernel⟩
  unfold State.zInside; decide +kernel

/-- One bit of the 14 missing. -/
theorem witness_StreamExhausted_counts :
    let s := { inflating .header [0x05, 0x00] 1 with bitPos := 19 }
    s.zInside ∧ 8 * s.zLen < s.bitPos + 14 ∧ s.bitPos + 13 ≤ 8 * s.zLen := by
  refine ⟨?_, by decide +kernel, by decide +kernel⟩
  unfold State.zInside; decide +kernel

theorem witness_UnusableCode :
    let s := inflating .dist [0x01] 1
    let t := { inflating .dist [0x01] 1 with dLen := [0, 1] }
    s.engineTurn = true ∧ s.phase = .inflate ∧ s.sub = .dist ∧ (∀ l ∈ s.dLen, l = 0) ∧
      t.dLen.getD 1 0 = 1 ∧ t.zInside ∧ t.bitPos < 8 * t.zLen ∧ t.zBit t.bitPos = 1 := by
  refine ⟨rfl, rfl, rfl, by decide +kernel, rfl, ?_, by decide +kernel, by decide +kernel⟩
  unfold State.zInside; decide +kernel
theorem witness_UnusableCode_others_empty : ∀ j, j ≠ 1 → [0, 1].getD j 0 = 0 := by
  intro j hj
  match j with
  | 0 => rfl
  | 1 => exact absurd rfl hj
  | j + 2 => rfl

theorem witness_EmitLiteral : ({ inflating .litlen [] 1 with rawPos := 2 ^ 20 - 1 } : State).rawPos < 2 ^ 20 := by
  decide +kernel
theorem witness_LengthSymbols :
    let s := { inflating .litlen [0xFF] 1 with bitPos := 19 }
    (Instr.len284, 284, 5, 227) ∈ lengthRows ∧ s.zInside ∧ s.bitPos + 5 ≤ 8 * s.zLen := by
  refine ⟨by decide +kernel, ?_, by decide +kernel⟩
  unfold State.zInside; decide +kernel

/-- The longest distance, once one byte too far and once just reached; the stop inside the match. -/
theorem witness_DistanceSymbols :
    let s := { inflating .dist [0xFF, 0xFF] 32770 with rawPos := 32768, matchLen := 3 }
    (Instr.dist29, 29, 13, 24577) ∈ distanceRows ∧ s.zInside ∧ s.bitPos + 13 ≤ 8 * s.zLen ∧
      24577 + s.zField s.bitPos 13 = 32768 ∧ min s.matchLen (s.n - s.rawPos) = 2 ∧
      32768 ≤ s.rawPos ∧ s.rawPos < s.n ∧ s.n ≤ s.cfg.rawCap ∧ ({ s with rawPos := 32767 } : State).rawPos < 32768 := by
  refine ⟨by decide +kernel, ?_, ?_, ?_, ?_, ?_, ?_, ?_, ?_⟩
  · unfold State.zInside; decide +kernel
  all_goals decide +kernel

/-- Vectors I2 and I7 after their block headers. -/
theorem witness_StoredBlock :
    let s := { inflating .header [0x01, 0x04, 0x00, 0xFB, 0xFF, 0x11, 0x22, 0x33, 0x44] 4 with bitPos := 19 }
    let t := { inflating .header [0x00, 0x02, 0x00, 0xFD, 0xFF, 0x11, 0x22] 3 with bitPos := 19 }
    s.zInside ∧ (s.bitPos + 7) / 8 = 3 ∧ 3 + 4 ≤ s.zLen ∧ s.zLe16 3 = 4 ∧ s.zLe16 5 = 4 ^^^ 0xFFFF ∧
      s.rawPos < s.n ∧ s.n ≤ s.cfg.rawCap ∧ s.n - s.rawPos ≤ 4 ∧ 3 + 4 + (s.n - s.rawPos) ≤ s.zLen ∧
      t.zInside ∧ t.zLe16 3 = 2 ∧ t.zLe16 5 = 2 ^^^ 0xFFFF ∧ 2 < t.n - t.rawPos ∧ 3 + 4 + 2 ≤ t.zLen ∧ t.bfinal ≠ 1 := by
  refine ⟨?_, ?_, ?_, ?_, ?_, ?_, ?_, ?_, ?_, ?_, ?_, ?_, ?_, ?_, ?_⟩
  case _ | refine_10 => unfold State.zInside; decide +kernel
  all_goals decide +kernel

/-- Vectors I5, I4, I6 and I3 after their block headers. -/
theorem witness_StoredBlockRaises :
    let s1 := { inflating .header [0x01, 0x04, 0x00, 0xFB] 4 with bitPos := 19 }
    let s2 := { inflating .header [0x01, 0x04, 0x00, 0xFA, 0xFF, 0x11, 0x22, 0x33, 0x44] 4 with bitPos := 19 }
    let s3 := { inflating .header [0x01, 0x04, 0x00, 0xFB, 0xFF, 0x11, 0x22] 4 with bitPos := 19 }
    let s4 := { inflating .header [0x01, 0x04, 0x00, 0xFB, 0xFF, 0x11, 0x22, 0x33, 0x44] 8 with bitPos := 19, bfinal := 1 }
    s1.zInside ∧ s2.zInside ∧ s3.zInside ∧ s4.zInside ∧
      (s1.bitPos + 7) / 8 = 3 ∧ s1.zLen < 3 + 4 ∧ s2.zLe16 3 = 4 ∧ s2.zLe16 5 ≠ 4 ^^^ 0xFFFF ∧
      s3.zLe16 5 = 4 ^^^ 0xFFFF ∧ s3.rawPos < s3.n ∧ s3.n ≤ s3.cfg.rawCap ∧ s3.zLen < 3 + 4 + min 4 (s3.n - s3.rawPos) ∧
      3 + 4 + 4 ≤ s4.zLen ∧ s4.zLe16 5 = 4 ^^^ 0xFFFF ∧ 4 < s4.n - s4.rawPos ∧ s4.n ≤ s4.cfg.rawCap ∧ s4.bfinal = 1 := by
  refine ⟨?_, ?_, ?_, ?_, ?_⟩
  iterate 4 (· unfold State.zInside; decide +kernel)
  · decide +kernel

/-- The code-length code that a dynamic header's three-bit fields give (42_deflate.md R174). -/
def clOf (s : State) (ncl : Nat) : List Nat :=
  (List.range 19).map fun sym =>
    let i := [16, 17, 18, 0, 8, 7, 9, 6, 10, 5, 11, 4, 12, 3, 13, 2, 14, 1, 15].idxOf sym
    if i < ncl then s.zField (s.bitPos + 14 + 3 * i) 3 else 0

/-- Vectors Y1, Y7, Y9 after their block headers, and Y1 cut short. -/
theorem witness_DynamicHeader :
    let y1 := { inflating .header [0x05, 0xC0, 0x01, 0x09, 0, 0, 0, 0x80, 0xA0] 4 with bitPos := 19 }
    let y7 := { inflating .header [0xF5, 0xC0, 0x01, 0x09, 0, 0, 0, 0x80, 0x20] 4 with bitPos := 19 }
    let y9 := { inflating .header [0x05, 0x00, 0x80, 0x00] 4 with bitPos := 19 }
    let cut := { inflating .header [0x05, 0xC0, 0x01, 0x09] 4 with bitPos := 19 }
    y1.zInside ∧ y7.zInside ∧ y9.zInside ∧ cut.zInside ∧
      (y1.zField 19 5 = 0 ∧ y1.zField 24 5 = 0 ∧ y1.zField 29 4 = 14 ∧ 19 + 14 + 3 * 18 ≤ 8 * y1.zLen ∧
        codeLengthsOk true (clOf y1 18) = true) ∧
      (y7.zField 19 5 = 30 ∧ 19 + 14 ≤ 8 * y7.zLen) ∧
      (y9.zField 19 5 = 0 ∧ y9.zField 24 5 = 0 ∧ y9.zField 29 4 = 0 ∧ 19 + 14 + 3 * 4 ≤ 8 * y9.zLen ∧
        codeLengthsOk true (clOf y9 4) = false) ∧
      (cut.zField 19 5 = 0 ∧ cut.zField 24 5 = 0 ∧ cut.zField 29 4 = 14 ∧ 19 + 14 ≤ 8 * cut.zLen ∧
        8 * cut.zLen < 19 + 14 + 3 * 18) := by
  refine ⟨?_, ?_, ?_, ?_, ?_, ?_, ?_, ?_⟩
  iterate 4 (· unfold State.zInside; decide +kernel)
  all_goals decide +kernel

theorem witness_CodeLengthSymbols :
    let s := codeLengths [7] 103
    let t := codeLengths (List.replicate 252 7) 103
    s.clAppends .cl16 = some (7, 6, 2) ∧ s.zInside ∧ s.bitPos + 2 ≤ 8 * s.zLen ∧
      s.lens.length < s.nlen + s.ndist ∧ s.lens.length + 6 < s.nlen + s.ndist ∧
      t.clAppends .cl17 = some (0, 10, 3) ∧ t.nlen + t.ndist < t.lens.length + 10 ∧ t.lens.length < t.nlen + t.ndist ∧
      t.zInside ∧ t.bitPos + 3 ≤ 8 * t.zLen ∧ (codeLengths [] 0).lens = [] := by
  refine ⟨?_, ?_, ?_, ?_, ?_, ?_, ?_, ?_, ?_, ?_, rfl⟩
  case refine_2 | refine_9 => unfold State.zInside; decide +kernel
  all_goals decide +kernel

/-- The end of vector Y1's description and of Y2's. -/
theorem witness_TablesBuilt :
    let full := fun a b : Nat => ((((List.replicate 258 0).set 0x0F 1).set 0xF0 a).set 256 b : List Nat)
    let s := codeLengths ((full 2 2).take 257) 0
    s.clAppends (.cl0to15 0) = some (0, 1, 0) ∧ s.lens.length + 1 = s.nlen + s.ndist ∧
      s.lens ++ List.replicate 1 0 = full 2 2 ∧ (full 2 2).getD 256 0 ≠ 0 ∧
      codeLengthsOk false ((full 2 2).take 257 ++ List.replicate (288 - 257) 0) = true ∧
      codeLengthsOk false ((full 2 2).drop 257 ++ List.replicate (32 - 1) 0) = true ∧
      (full 1 0).getD 256 0 = 0 ∧
      codeLengthsOk false ((full 1 1).take 257 ++ List.replicate (288 - 257) 0) = false := by decide +kernel

/-- The raw sizes and capacities of the seven routines, for vectors X1, X3, X4, X14, X16, X11 and X10. -/
theorem witness_Repack :
    let s1 := repacking 1 2 1 [0xF0, 0x0F, 0x12, 0x34]
    let s2 := repacking 2 1 2 [1, 2, 3, 4, 5, 6, 7, 8]
    let s513 := repacking 513 2 1 [0xFF, 0xFF, 0x00, 0xF8]
    let s3 := repacking 3 5 2 [0x21, 0xF3, 0x00, 0xF0]
    let s517 := repacking 517 8 16 [0x40]
    let sDxt := repacking 1026 4 4 (List.replicate 16 0)
    (s1.phase = .repack ∧ s1.n = s1.w * s1.h * 2 ∧ s1.n ≤ s1.cfg.rawCap ∧ s1.w * s1.h * 4 ≤ s1.cfg.outCap) ∧
      (s2.n = s2.w * s2.h * 4 ∧ s2.n ≤ s2.cfg.rawCap ∧ s2.n ≤ s2.cfg.outCap) ∧
      (s513.n = s513.w * s513.h * 2 ∧ s513.n ≤ s513.cfg.rawCap ∧ s513.n ≤ s513.cfg.outCap) ∧
      (2 * ((s3.w + 3) / 4) * ((s3.h + 3) / 4) ≤ s3.cfg.rawCap ∧ s3.w * s3.h * 4 ≤ s3.cfg.outCap) ∧
      (128 * s517.n = s517.w * s517.h ∧ s517.n ≤ s517.cfg.rawCap ∧ s517.w * s517.h * 4 ≤ s517.cfg.outCap) ∧
      (sDxt.phase = .repack ∧ 16 * ((sDxt.w + 3) / 4) * ((sDxt.h + 3) / 4) ≤ sDxt.cfg.rawCap ∧
        sDxt.w * sDxt.h * 4 ≤ sDxt.cfg.outCap) := by decide +kernel
theorem witness_RepackDxt_tables : (repacking 1026 4 4 (List.replicate 16 0)).TablesFit :=
  ⟨by decide +kernel, by decide +kernel, by decide +kernel, by decide +kernel, by decide +kernel, by decide +kernel,
    by decide +kernel, by decide +kernel, by decide +kernel⟩
/-- The last pixel of a block, its index and colour. -/
theorem witness_RepackDxt_pixel :
    let s := repacking 1026 4 4 (List.replicate 15 0 ++ [0xC0])
    3 < s.w ∧ 3 < s.h ∧ 16 * (3 / 4 + 3 / 4 * ((s.w + 3) / 4)) = 0 ∧ 4 * (3 % 4) + 3 % 4 = 15 ∧
      (colourTable (s.rawAt 8 + 256 * s.rawAt 9) (s.rawAt 10 + 256 * s.rawAt 11))[
        s.rawAt (0 + 12 + 15 / 4) / 4 ^ (15 % 4) % 4]? = some { r := 0, g := 0, b := 0 } := by decide +kernel
theorem witness_RepackWritesOut : atRepack.Inv ∧ atRepack.engineTurn = true ∧ atRepack.phase = .repack :=
  ⟨witness_Inv_repack, rfl, rfl⟩

theorem witness_ResetInv : Config.standard.wf ∧
    ({ Config.standard with inCap := 2 ^ 32 - 1, rbCap := 2 ^ 32 - 10, keyLen := 0, hdrSet := [] } : Config).wf := by
  decide
theorem witness_StepKeepsInv : atFetch.Inv ∧ step atFetch = .next (takeError .source atFetch) :=
  ⟨witness_Inv_fetch, rfl⟩
theorem witness_EngineTurnCompletes : atFetch.Inv ∧ atFetch.engineTurn = true := ⟨witness_Inv_fetch, rfl⟩
theorem witness_StopsOnlyOnHostMisuse : (asked (.readReg 10)).Inv ∧ ∀ t, step (asked (.readReg 10)) ≠ .next t :=
  ⟨witness_Inv_idle, fun t h => by
    have h' : step (asked (.readReg 10)) = .fault (.registerOutside 10) := rfl
    rw [h'] at h; cases h⟩
theorem witness_DecodeEnds : atFetch.Inv ∧ atFetch.phase = .fetch ∧ atFetch.host = [] := ⟨witness_Inv_fetch, rfl, rfl⟩
theorem witness_EngineKeepsInputs :
    atRepack.Inv ∧ atRepack.engineTurn = true ∧ atRepack.phase ≠ .strip ∧
      step atRepack = .next (finishDecode 2 0 atRepack) := ⟨witness_Inv_repack, rfl, by decide, rfl⟩
theorem witness_KeyUnreadOutsideStrip :
    atFetch.engineTurn = true ∧ atFetch.phase ≠ .strip ∧ step atFetch = .next (takeError .source atFetch) :=
  ⟨rfl, by decide, rfl⟩

end Sys2Proof.Tests
end

section
/-! SUPPORT. From a value to the meaning of its row, what each phase of a decode can do, and what a host move can do;
then the two statements of 00_scope.md: the engine's turn completes, and only a host move that does not exist stops a
step. -/

namespace Sys2Proof.Machine

/-! ## Values and their rows (30_encoding.md R113) -/

/-- A `CTRL` write selects a command (30_encoding.md R91). -/
theorem decode_cmd {v : Nat} (hv : v < 2 ^ 32) :
    ∃ i effect, decode .cmd v = .ok i ∧ ∀ s, exec i s = command effect s := by
  simp only [decode, decodeCmd, hv, if_true]
  split
  · exact ⟨_, _, rfl, fun _ => rfl⟩
  · exact ⟨_, _, rfl, fun _ => rfl⟩
  · exact ⟨_, _, rfl, fun _ => rfl⟩
  · exact ⟨_, _, rfl, fun _ => rfl⟩

/-- The routine that writes the pixels of a supported format (43_pixel_formats.md R213 to R219). -/
def repackOf : Nat → State → Res Unit
  | 1 => repackBgra4444
  | 2 => repackCopy
  | 3 => repackTile4444
  | 513 => repackCopy
  | 517 => repackGray1x16
  | 1026 => dxtImage false
  | 2050 => dxtImage true
  | _ => .ok ()

/-- A supported format code selects the row that dispatches it and runs its routine (30_encoding.md R108). -/
theorem decode_fmt_supported {v : Nat} (hv : v ∈ formatCodes) :
    ∃ i, decode .fmt v = .ok i ∧ ∀ s, exec i s = formatRow v (repackOf v) s := by
  simp only [formatCodes, List.mem_cons, List.not_mem_nil, or_false] at hv
  rcases hv with rfl | rfl | rfl | rfl | rfl | rfl | rfl
  · exact ⟨.bgra4444, rfl, fun _ => rfl⟩
  · exact ⟨.bgra8888, rfl, fun _ => rfl⟩
  · exact ⟨.tile4444, rfl, fun _ => rfl⟩
  · exact ⟨.rgb565, rfl, fun _ => rfl⟩
  · exact ⟨.gray1x16, rfl, fun _ => rfl⟩
  · exact ⟨.dxt3, rfl, fun _ => rfl⟩
  · exact ⟨.dxt5, rfl, fun _ => rfl⟩

/-- Every other effective format selects UNSUPPORTED (30_encoding.md R108). -/
theorem decode_fmt_unsupported {v : Nat} (hv : v < 2 ^ 33) (hn : v ∉ formatCodes) :
    decode .fmt v = .ok (.unsupported v) := by
  simp only [formatCodes, List.mem_cons, List.not_mem_nil, or_false, not_or] at hn
  simp only [decode, decodeFmt, hv, if_true]
  simp [hn]

/-- Every 16-bit value selects a header row, whose meaning is that of the value (30_encoding.md R94, R95). -/
theorem decode_hdr16 {v : Nat} (hv : v < 2 ^ 16) :
    ∃ i, decode .hdr16 v = .ok i ∧ ∀ s, exec i s = headerRow (BitVec.ofNat 16 v) s := by
  simp only [decode, decodeHdr, hv, if_true]
  split
  · exact ⟨_, rfl, fun _ => rfl⟩
  · exact ⟨_, rfl, fun _ => rfl⟩
  · exact ⟨_, rfl, fun _ => rfl⟩
  · exact ⟨_, rfl, fun _ => rfl⟩
  · exact ⟨_, rfl, fun _ => rfl⟩

/-- A length row is selected by its symbol (30_encoding.md R102). -/
theorem decode_lengthRow {i : Instr} {v extra base : Nat} (h : (i, v, extra, base) ∈ lengthRows) :
    decode .litlen v = .ok i := by
  fin_cases h <;> rfl

/-- A length row reads its extra bits and adds its base (42_deflate.md R179). -/
theorem exec_lengthRow {i : Instr} {v extra base : Nat} (h : (i, v, extra, base) ∈ lengthRows) (s : State) :
    exec i s = (matchLength base extra s).toOutcome := by
  fin_cases h <;> rfl

/-- The length rows cover the symbols 257 to 285. -/
theorem lengthRows_cover {v : Nat} (h : 257 ≤ v) (h' : v < 286) :
    ∃ i extra base, (i, v, extra, base) ∈ lengthRows := by
  have hrow : ∀ k < 29, ∃ r ∈ lengthRows, r.2.1 = 257 + k := by decide
  obtain ⟨⟨i, w, extra, base⟩, hmem, hw⟩ := hrow (v - 257) (by omega)
  obtain rfl : w = v := by simp only at hw; omega
  exact ⟨i, extra, base, hmem⟩

/-- A distance row is selected by its symbol (30_encoding.md R103). -/
theorem decode_distanceRow {i : Instr} {v extra base : Nat} (h : (i, v, extra, base) ∈ distanceRows) :
    decode .dist v = .ok i := by
  fin_cases h <;> rfl

/-- A distance row reads its extra bits, adds its base and copies the match (42_deflate.md R180, R181). -/
theorem exec_distanceRow {i : Instr} {v extra base : Nat} (h : (i, v, extra, base) ∈ distanceRows) (s : State) :
    exec i s = (matchDistance base extra s).toOutcome := by
  fin_cases h <;> rfl

theorem distanceRow_base_pos {i : Instr} {v extra base : Nat} (h : (i, v, extra, base) ∈ distanceRows) :
    1 ≤ base := by
  have hpos : ∀ r ∈ distanceRows, 1 ≤ r.2.2.2 := by decide
  exact hpos _ h

/-- The distance rows cover the symbols 0 to 29. -/
theorem distanceRows_cover {v : Nat} (h : v < 30) : ∃ i extra base, (i, v, extra, base) ∈ distanceRows := by
  have hrow : ∀ k < 30, ∃ r ∈ distanceRows, r.2.1 = k := by decide
  obtain ⟨⟨i, w, extra, base⟩, hmem, rfl⟩ := hrow v h
  exact ⟨i, extra, base, hmem⟩

/-! ## Completing a step -/

/-- The outcome is a next state, and it meets `P`. -/
def Reaches (P : State → Prop) (o : Host.Outcome State Fault Refusal) : Prop := ∃ t, o = .next t ∧ P t

/-- What has been fetched runs to a next state that meets `P`. -/
def Leads (P : State → Prop) (r : Res (Option Instr)) : Prop :=
  r.Sat
    (fun i t =>
      match i with
      | some i => Reaches P (exec i t)
      | none => P t)
    (fun e t => P (takeError e t)) (fun _ => False)

section
variable {P : State → Prop}

theorem reaches_next {t : State} (h : P t) : Reaches P (.next t) := ⟨t, rfl, h⟩

theorem Res.Sat.reaches {r : Res Unit} {Q : Unit → State → Prop} {E : ErrCode → State → Prop}
    (h : r.Sat Q E fun _ => False) (hQ : ∀ t, Q () t → P t) (hE : ∀ e t, E e t → P (takeError e t)) :
    Reaches P r.toOutcome :=
  (h.toOutcome hQ hE).resolve_right fun ⟨_, _, hf⟩ => hf

theorem leads_none {t : State} (h : P t) : Leads P (.ok none t) := h

theorem leads_err {e : ErrCode} {t : State} (h : P (takeError e t)) : Leads P (.err e t) := h

theorem leads_select {f : Format} {v : Nat} {i : Instr} {s : State} (hd : decode f v = .ok i)
    (h : Reaches P (exec i s)) : Leads P (select f v s) := by
  rw [select_ok hd]
  exact h

/-- The fetch goes on after an operation. -/
theorem Res.Sat.leads {α : Type} {r : Res α} {k : α → State → Res (Option Instr)} {Q : α → State → Prop}
    {E : ErrCode → State → Prop} (h : r.Sat Q E fun _ => False) (hk : ∀ a t, Q a t → Leads P (k a t))
    (hE : ∀ e t, E e t → P (takeError e t)) : Leads P (r.andThen k) :=
  (h.mono (fun _ _ hq => hq) hE fun _ hf => hf).andThen hk

/-- A step completes where its fetch leads on. -/
theorem Leads.step {s : State} (h : Leads P (fetch s)) : Reaches P (step s) := by
  unfold Machine.step
  revert h
  cases fetch s with
  | ok i t =>
    cases i with
    | none => exact fun h => ⟨t, rfl, h⟩
    | some i => exact id
  | err e t => exact fun h => ⟨_, rfl, h⟩
  | fault f => exact False.elim
  | refuse x => exact False.elim

end

/-- An arrow leads from phase `ph` to the phase of `t` (10_state.md R34). -/
def Follows (ph : Phase) (t : State) : Prop := (ph, t.phase) ∈ engineArrows

theorem Follows.of_phase {ph ph' : Phase} {t : State} (h : t.phase = ph') (ha : (ph, ph') ∈ engineArrows) :
    Follows ph t := by
  unfold Follows
  rw [h]
  exact ha

theorem follows_takeError {ph : Phase} (ha : (ph, Phase.error) ∈ engineArrows) (e : ErrCode) (t : State) :
    Follows ph (takeError e t) := .of_phase rfl ha

/-! ## FETCH -/

/-- The length field is read where `IN` holds it (40_host_interface.md R125). -/
theorem readL_inside {s : State} (h : 4 ≤ s.cfg.inCap) : readL s = .ok s.lField s := by
  simp [readL, memRead_inside (b := .inB) (a := 0) (n := 4) (s := s) (by simpa using h), State.lField]

/-- FETCH ends the decode, goes on to DISPATCH or raises (40_host_interface.md R124, R125). -/
theorem fetchPhase_leads (s : State) : Leads (Follows .fetch) (fetchPhase s) := by
  have raises := follows_takeError (ph := .fetch) (by decide)
  unfold fetchPhase
  split
  · exact leads_err (raises _ _)
  split
  · exact leads_err (raises _ _)
  rw [readL_inside (by omega), Res.andThen_ok]
  dsimp only
  split
  · exact leads_none (.of_phase (ph' := .done) rfl (by decide))
  split
  · exact leads_err (raises _ _)
  · exact leads_none (.of_phase (ph' := .dispatch) rfl (by decide))

/-! ## DISPATCH -/

/-- The dispatch key is a value of the format FMT (30_encoding.md R113, 43_pixel_formats.md R210). -/
theorem effectiveFmt_lt (s : State) : s.effectiveFmt < 2 ^ 33 := by
  have hpri := s.fmtPri.isLt
  have hsec : field 7 0 s.fmtSec.toNat < 2 ^ 8 := Nat.mod_lt _ (by decide)
  unfold State.effectiveFmt
  omega

/-- DISPATCH goes on to CLASSIFY or raises (43_pixel_formats.md R211, R212, R220; 40_host_interface.md R126). -/
theorem fetchFormat_leads {s : State} (hph : s.phase = .dispatch) : Leads (Follows .dispatch) (fetchFormat s) := by
  unfold fetchFormat
  by_cases hs : s.effectiveFmt ∈ formatCodes
  · obtain ⟨i, hd, hx⟩ := decode_fmt_supported hs
    refine leads_select hd ?_
    rw [hx]
    simp only [formatRow, hph]
    refine (dispatchAs_sat _ _).reaches ?_ fun e t _ => follows_takeError (by decide) e t
    rintro t ⟨ht, -⟩
    exact .of_phase (ph' := .classify) (by rw [ht]) (by decide)
  · exact leads_select (decode_fmt_unsupported (effectiveFmt_lt s) hs)
      (reaches_next (follows_takeError (by decide) _ _))

/-! ## CLASSIFY and STRIP -/

/-- The header is read where the payload holds it, and its value selects a header row (41_framing.md R141). -/
theorem readHeader_leads {P : State → Prop} {s : State} (hin : 7 ≤ s.cfg.inCap)
    (h : ∀ v, Reaches P (headerRow v s)) : Leads P ((readHeader s).andThen fun v t => select .hdr16 v t) := by
  obtain ⟨i, hd, hx⟩ := decode_hdr16 (le_lt s .inB 5 2)
  unfold readHeader
  rw [memRead_inside (by simpa using hin), Res.andThen_ok]
  exact leads_select hd (hx s ▸ h _)

/-- CLASSIFY goes on to STRIP or INFLATE, or raises (41_framing.md R140 to R142). -/
theorem fetchHeader_leads {s : State} (hph : s.phase = .classify) (hp : s.payloadFits) :
    Leads (Follows .classify) (fetchHeader s) := by
  obtain ⟨-, hwin, hcap⟩ := hp
  unfold fetchHeader
  split
  · exact leads_err (follows_takeError (by decide) _ _)
  refine readHeader_leads (by omega) fun v => ?_
  simp only [headerRow, hph]
  refine (classify_sat v s).reaches ?_ fun _ _ h => h.elim
  rintro t ⟨-, ht⟩
  split at ht
  · exact .of_phase ht.2.1 (by decide)
  · exact .of_phase ht.2.1 (by decide)

/-- From `s` to `t` the stripper has appended `k` bytes to `RB`, and nothing else has changed. -/
def Stripped (s : State) (k : Nat) (t : State) : Prop :=
  ∃ m, t = { s with rb := m, rbLen := s.rbLen + k } ∧ (s.rb.wf = true → m.wf = true) ∧
    ∀ a, a < s.rbLen ∨ s.rbLen + k ≤ a → m.get? a = s.rb.get? a

/-- Everything the bytes of one record of size `z` can do (41_framing.md R144, R145): they stand in `RB` from `RB_LEN` on,
or the key is too short. -/
theorem stripRecord_sat {s : State} {z : Nat} (hin : 5 + (s.inPos + z) ≤ s.cfg.inCap)
    (hrb : s.rbLen + z ≤ s.cfg.rbCap) :
    (forUp z 0 stripByte s).Sat (fun _ t => Stripped s z t)
      (fun e t => e = .key ∧ s.cfg.keyLen < z ∧ ∃ k < z, Stripped s k t) (fun _ => False) := by
  have start : Stripped s 0 s := ⟨s.rb, rfl, id, fun _ _ => rfl⟩
  rw [show Stripped s z = Stripped s (0 + z) by rw [Nat.zero_add]]
  refine forUp_sat (Stripped s) z 0 start ?_
  rintro i t - hi ⟨m, rfl, hwf, hget⟩
  refine (stripByte_sat i (by omega) (by omega)).mono ?_ ?_ fun _ h => h
  · rintro - u rfl
    refine ⟨_, rfl, fun h => Mem.wf_put _ _ (hwf h), fun a ha => ?_⟩
    rw [Mem.get?_put_other _ _ _ _ (by omega), hget a (by omega)]
  · rintro e u ⟨rfl, hkey, rfl⟩
    exact ⟨rfl, by omega, i, by omega, m, rfl, hwf, hget⟩

/-- What is left of the payload fits into `RB` beside what has been stripped, less the next record's length field
(41_framing.md R146). -/
theorem stripFits_room {s : State} (hcfg : s.cfg.wf) (hp : s.payloadFits) (hs : s.stripFits) (h : s.inPos + 4 ≤ s.p) :
    s.rbLen + (s.p - (s.inPos + 4)) ≤ s.cfg.rbCap := by
  obtain ⟨-, hwin, hcap⟩ := hp
  obtain ⟨-, -, -, -, -, hrb⟩ := hcfg
  have := hrb (by omega)
  obtain ⟨-, ⟨h0, h1⟩ | h1⟩ := hs
  · omega
  · omega

/-- One turn of the record loop stays in STRIP, ends it or raises (41_framing.md R144). -/
theorem stripTurn_reaches {s : State} (hph : s.phase = .strip) (hcfg : s.cfg.wf) (hp : s.payloadFits)
    (hs : s.stripFits) : Reaches (Follows .strip) (stripTurn s).toOutcome := by
  have raises := follows_takeError (ph := .strip) (by decide)
  unfold stripTurn
  split
  · exact reaches_next (.of_phase (ph' := .inflate) rfl (by decide))
  split
  · exact reaches_next (raises _ _)
  have hroom := stripFits_room hcfg hp hs (by omega)
  obtain ⟨-, hwin, hcap⟩ := hp
  rw [memRead_inside (by simp only [capOf_inB]; omega), Res.andThen_ok]
  dsimp only
  split
  · exact reaches_next (raises _ _)
  have hrec := stripRecord_sat (s := { s with inPos := s.inPos + 4 }) (z := s.le .inB (5 + s.inPos) 4)
    (by dsimp only; omega) (by dsimp only; omega)
  refine Res.Sat.reaches (hrec.andThen (Q' := fun _ t => t.phase = .strip) ?_) (fun t ht => .of_phase ht (by decide))
    fun e t _ => raises e t
  rintro - t ⟨m, rfl, -⟩
  exact hph

theorem fetchStrip_leads {s : State} (hph : s.phase = .strip) (hcfg : s.cfg.wf) (hp : s.payloadFits) (h2 : 2 ≤ s.p)
    (hs : s.stripFits) : Leads (Follows .strip) (fetchStrip s) := by
  have hin : 7 ≤ s.cfg.inCap := by
    obtain ⟨-, hwin, hcap⟩ := hp
    omega
  refine readHeader_leads hin fun v => ?_
  simp only [headerRow, hph]
  exact stripTurn_reaches hph hcfg hp hs

/-! ## INFLATE -/

/-- What every row of INFLATE needs: the stream is inside its buffer, a byte is still wanted, and `RAW` has room for all
`N` of them (42_deflate.md R164). -/
structure Inflating (s : State) : Prop where
  phase : s.phase = .inflate
  stream : s.zInside
  wanted : s.rawPos < s.n
  room : s.n ≤ s.cfg.rawCap

theorem Advanced.inflating {s t : State} (h : Advanced s t) (hs : Inflating s) : Inflating t := by
  obtain ⟨k, -, rfl⟩ := h
  exact ⟨hs.phase, hs.stream, hs.wanted, hs.room⟩

theorem follows_inflate {t : State} (h : t.phase = .inflate) : Follows .inflate t := .of_phase h (by decide)

theorem follows_repack {t : State} (h : t.phase = .repack) : Follows .inflate t := .of_phase h (by decide)

theorem inflate_raises (e : ErrCode) (t : State) : Follows .inflate (takeError e t) :=
  follows_takeError (by decide) e t

theorem inflateEntry_follows {s : State} (hph : s.phase = .inflate) : Follows .inflate (inflateEntry s) := by
  unfold inflateEntry
  dsimp only
  split
  · exact follows_repack rfl
  · exact follows_inflate hph

/-- Everything reading a block header can do (42_deflate.md R166). -/
theorem readBlockHeader_sat {s : State} (hz : s.zInside) :
    (readBlockHeader s).Sat
      (fun ty t => ty < 4 ∧ ∃ f, f < 2 ∧ t = { s with bitPos := s.bitPos + 3, bfinal := f, btype := ty })
      (fun e t => e = .trunc ∧ t = { s with bitPos := t.bitPos, bfinal := t.bfinal } ∧
        (t.bfinal = s.bfinal ∨ t.bfinal < 2))
      (fun _ => False) := by
  unfold readBlockHeader
  refine Res.Sat.andThen ((getbit_sat hz).mono (fun _ _ h => h) ?_ fun _ h => h) ?_
  · rintro e t ⟨rfl, rfl⟩
    exact ⟨rfl, rfl, .inl rfl⟩
  rintro f t ⟨hf, -, rfl⟩
  refine Res.Sat.andThen ((getbits_sat 2 (s := { s with bitPos := s.bitPos + 1, bfinal := f }) hz).mono
    (fun _ _ h => h) ?_ fun _ h => h) ?_
  · rintro e t ⟨rfl, k, -, rfl⟩
    exact ⟨rfl, rfl, .inr hf⟩
  rintro ty t ⟨hty, rfl, -⟩
  exact ⟨hty, f, hf, rfl⟩

/-- A block header value (30_encoding.md R98). -/
theorem selectBlkhdr_leads {s : State} (hs : Inflating s) {v : Nat} (hv : v < 4) :
    Leads (Follows .inflate) (select .blkhdr v s) := by
  match v, hv with
  | 0, _ =>
    refine leads_select (i := .stored) rfl ?_
    refine (storedBlock_sat hs.stream hs.wanted hs.room).reaches ?_ fun e t _ => inflate_raises e t
    rintro t ⟨u, -, ⟨rfl, -, hu⟩ | ⟨rfl, -, hu, -⟩⟩
    · exact follows_repack hu
    · exact follows_inflate (hu.trans hs.phase)
  | 1, _ => exact leads_select (i := .fixed) rfl (reaches_next (follows_inflate hs.phase))
  | 2, _ =>
    refine leads_select (i := .dynamic) rfl ?_
    refine (dynamicBlock_sat hs.stream).reaches ?_ fun e t _ => inflate_raises e t
    rintro t ⟨ht, -⟩
    exact follows_inflate (by rw [ht]; exact hs.phase)
  | 3, _ => exact leads_select (i := .btypeReserved) rfl (reaches_next (inflate_raises _ _))

/-- Appending code lengths never leaves the phase (42_deflate.md R175, R176). -/
theorem appendLens_phase (v r : Nat) (s : State) :
    (appendLens v r s).Sat (fun _ t => t.phase = s.phase) (fun _ _ => True) (fun _ => False) := by
  rcases Nat.lt_or_ge (s.lens.length + r) (s.nlen + s.ndist) with h | h
  · rw [appendLens_more h]
    exact rfl
  · rw [appendLens_last h]
    refine (buildTables_sat _).mono ?_ (fun _ _ _ => trivial) fun _ h => h
    rintro - t ⟨ht, -⟩
    rw [ht]

/-- A code-length symbol with extra bits stays in INFLATE or raises (42_deflate.md R175). -/
theorem repeatSymbol_reaches {s : State} (hs : Inflating s) (v base extra : Nat) :
    Reaches (Follows .inflate) ((getbits extra s).andThen fun e t => repeatLens v (base + e) t).toOutcome := by
  refine Res.Sat.reaches (Res.Sat.andThen (E := fun _ _ => True) (Q' := fun _ t => t.phase = .inflate)
    ((getbits_sat extra hs.stream).mono (fun _ _ h => h) (fun _ _ _ => trivial) fun _ h => h) ?_)
    (fun t ht => follows_inflate ht) fun e t _ => inflate_raises e t
  rintro e t ⟨-, rfl, -⟩
  rcases repeatLens_cases v (base + e) { s with bitPos := s.bitPos + extra } with ⟨-, he⟩ | ⟨-, he⟩
  · rw [he]
    trivial
  · rw [he]
    exact (appendLens_phase _ _ _).mono_ok fun _ t ht => ht.trans hs.phase

/-- A code-length symbol (30_encoding.md R104). -/
theorem selectClsym_leads {s : State} (hs : Inflating s) {v : Nat} (hv : v < 19) :
    Leads (Follows .inflate) (select .clsym v s) := by
  by_cases hlit : v < 16
  · refine leads_select (i := .cl0to15 v) (by simp [decode, decodeClsym, hlit]) ?_
    exact (appendLens_phase v 1 s).reaches (fun t ht => follows_inflate (ht.trans hs.phase))
      fun e t _ => inflate_raises e t
  obtain rfl | rfl | rfl : v = 16 ∨ v = 17 ∨ v = 18 := by omega
  · refine leads_select (i := .cl16) rfl ?_
    simp only [exec, execCl16]
    split
    · exact reaches_next (inflate_raises _ _)
    · exact repeatSymbol_reaches hs _ 3 2
  · exact leads_select (i := .cl17) rfl (repeatSymbol_reaches hs 0 3 3)
  · exact leads_select (i := .cl18) rfl (repeatSymbol_reaches hs 0 11 7)

/-- LIT stays in INFLATE or, where the stop rule fires, goes on to REPACK (42_deflate.md R164, R178). -/
theorem execLit_reaches {s : State} (hs : Inflating s) (b : Byte) : Reaches (Follows .inflate) (execLit b s) := by
  refine Res.Sat.reaches ((emit_sat hs.wanted hs.room).andThen (Q' := fun _ t => Follows .inflate t) ?_)
    (fun _ ht => ht) fun _ _ h => h.elim
  rintro stop t ⟨-, -, -, ht⟩
  cases stop with
  | true => exact follows_repack ht.2
  | false => exact follows_inflate (ht.2.trans hs.phase)

/-- EOB goes on in INFLATE or raises (42_deflate.md R182). -/
theorem execEob_reaches {s : State} (hs : Inflating s) : Reaches (Follows .inflate) (execEob s) := by
  unfold execEob
  rcases endBlock_cases s with ⟨-, he⟩ | ⟨-, he⟩
  · rw [he]
    exact reaches_next (inflate_raises _ _)
  · rw [he]
    exact reaches_next (follows_inflate hs.phase)

/-- A literal/length symbol (30_encoding.md R101). -/
theorem selectLitlen_leads {s : State} (hs : Inflating s) {v : Nat} (hv : v < 288) :
    Leads (Follows .inflate) (select .litlen v s) := by
  by_cases hlit : v < 256
  · exact leads_select (i := .lit (BitVec.ofNat 8 v)) (by simp [decode, decodeLitlen, hlit]) (execLit_reaches hs _)
  obtain rfl | ⟨h1, h2⟩ | rfl | rfl : v = 256 ∨ (257 ≤ v ∧ v < 286) ∨ v = 286 ∨ v = 287 := by omega
  · exact leads_select (i := .eob) rfl (execEob_reaches hs)
  · obtain ⟨i, extra, base, hrow⟩ := lengthRows_cover h1 h2
    refine leads_select (decode_lengthRow hrow) ?_
    rw [exec_lengthRow hrow]
    refine (matchLength_sat base extra hs.stream).reaches ?_ fun e t _ => inflate_raises e t
    rintro t ⟨ht, -⟩
    exact follows_inflate (by rw [ht]; exact hs.phase)
  · exact leads_select (i := .litlenInvalid 286) rfl (reaches_next (inflate_raises _ _))
  · exact leads_select (i := .litlenInvalid 287) rfl (reaches_next (inflate_raises _ _))

/-- A distance symbol (30_encoding.md R103). -/
theorem selectDist_leads {s : State} (hs : Inflating s) {v : Nat} (hv : v < 32) :
    Leads (Follows .inflate) (select .dist v s) := by
  obtain h | rfl | rfl : v < 30 ∨ v = 30 ∨ v = 31 := by omega
  · obtain ⟨i, extra, base, hrow⟩ := distanceRows_cover h
    refine leads_select (decode_distanceRow hrow) ?_
    rw [exec_distanceRow hrow]
    refine (matchDistance_sat base extra (distanceRow_base_pos hrow) hs.stream hs.wanted hs.room).reaches ?_
      fun e t _ => inflate_raises e t
    rintro t ⟨u, -, ⟨rfl, -, hu⟩ | ⟨rfl, -, hu⟩⟩
    · exact follows_repack hu
    · exact follows_inflate (hu.trans hs.phase)
  · exact leads_select (i := .distInvalid 30) rfl (reaches_next (inflate_raises _ _))
  · exact leads_select (i := .distInvalid 31) rfl (reaches_next (inflate_raises _ _))

/-- A symbol of the code in force is read, and its row runs (42_deflate.md R171). -/
theorem readSymbol_leads {s : State} (hs : Inflating s) {lens : List Nat} {size : Nat} {f : Format}
    (hlen : lens.length = size)
    (hrow : ∀ t, Inflating t → ∀ v < size, Leads (Follows .inflate) (select f v t)) :
    Leads (Follows .inflate) ((readSymbol lens s).andThen fun v t => select f v t) := by
  refine (readSymbol_sat lens hs.stream).leads ?_ fun e t _ => inflate_raises e t
  rintro v t ⟨hv, hadv, -⟩
  exact hrow t (hadv.inflating hs) v (hlen ▸ hv)

/-- INFLATE stays, goes on to REPACK or raises (42_deflate.md R160, R178). -/
theorem fetchInflate_leads {s : State} (hph : s.phase = .inflate) (htab : s.TablesFit) (hf : s.formatFits)
    (hi : s.inflateFits) : Leads (Follows .inflate) (fetchInflate s) := by
  obtain ⟨-, -, -, -, hroom, -⟩ := hf
  have inflating (h : s.streamFits) : Inflating s := ⟨hph, h.1, h.2.2, hroom⟩
  unfold State.inflateFits at hi
  unfold fetchInflate
  cases hsub : s.sub <;> simp only [hsub] at hi ⊢
  case entry => exact leads_none (inflateEntry_follows hph)
  case header =>
    have hs := inflating hi
    refine (readBlockHeader_sat hs.stream).leads ?_ fun e t _ => inflate_raises e t
    rintro v t ⟨hv, f, -, rfl⟩
    exact selectBlkhdr_leads (s := { s with bitPos := s.bitPos + 3, bfinal := f, btype := v })
      ⟨hph, hs.stream, hs.wanted, hroom⟩ hv
  case codeLens => exact readSymbol_leads (inflating hi.1) htab.clLen.1 fun _ ht _ => selectClsym_leads ht
  case litlen => exact readSymbol_leads (inflating hi) htab.llLen.1 fun _ ht _ => selectLitlen_leads ht
  case dist => exact readSymbol_leads (inflating hi.1) htab.dLen.1 fun _ ht _ => selectDist_leads ht

/-! ## REPACK -/

/-- The routine of a dispatched format paints inside `OUT_SIZE` and completes (43_pixel_formats.md R211 to R219). -/
theorem repackOf_paints {s : State} (h : s.formatFits) :
    Paints (outSize s.fmt s.w s.h) s (repackOf s.fmt s) := by
  obtain ⟨-, hcode, hn, hdims, hraw, hout⟩ := h
  simp only [formatCodes, List.mem_cons, List.not_mem_nil, or_false] at hcode
  rcases hcode with he | he | he | he | he | he | he <;>
    simp only [he, rawSize, dimsFit, outSize, repackOf, beq_iff_eq, if_true, if_false,
      Nat.reduceEqDiff] at hn hdims hout ⊢
  · have hsize : s.w * s.h * 4 = 2 * s.n := by omega
    rw [hsize] at hout ⊢
    exact repackBgra4444_paints hraw hout
  · rw [← hn] at hout ⊢
    exact repackCopy_paints hraw hout
  · refine repackTile4444_paints ?_ hout
    have hbytes : ceil4 s.w * 4 * ceil4 s.h * 4 = 2 * (ceil4 s.w * ceil4 s.h) * 8 := by ring
    omega
  · rw [← hn] at hout ⊢
    exact repackCopy_paints hraw hout
  · exact repackGray1x16_paints (by omega) hraw hout
  · exact dxtImage_paints false (by rw [← mul_assoc]; omega) hout
  · exact dxtImage_paints true (by rw [← mul_assoc]; omega) hout

/-- REPACK ends the decode (40_host_interface.md R128). -/
theorem fetchRepack_leads {s : State} (hph : s.phase = .repack) (hf : s.formatFits) :
    Leads (Follows .repack) (fetchRepack s) := by
  obtain ⟨i, hd, hx⟩ := decode_fmt_supported hf.2.1
  refine leads_select hd ?_
  rw [hx]
  simp only [formatRow, hph]
  refine Res.Sat.reaches ((repackOf_paints hf).andThen (Q' := fun _ t => t.phase = .done) fun _ _ _ => rfl)
    (fun t ht => .of_phase ht (by decide)) fun _ _ h => h.elim

/-! ## The engine's turn -/

/-- In a running decode the next action completes along an arrow of 10_state.md R34. -/
theorem nextAction_leads {s : State} (hinv : s.Inv) (hrun : s.phase.running = true) :
    Leads (Follows s.phase) (nextAction s) := by
  have hfits := hinv.phase
  unfold State.phaseFits at hfits
  unfold nextAction
  cases hph : s.phase <;> simp only [hph, Phase.running, Bool.false_eq_true] at hfits hrun ⊢
  case fetch => exact fetchPhase_leads s
  case dispatch => exact fetchFormat_leads hph
  case classify => exact fetchHeader_leads hph hfits.1
  case strip =>
    obtain ⟨hpay, -, h2, hstrip⟩ := hfits
    exact fetchStrip_leads hph hinv.cfg hpay h2 hstrip
  case inflate =>
    obtain ⟨-, hform, hinf⟩ := hfits
    exact fetchInflate_leads hph hinv.tables hform hinf
  case repack => exact fetchRepack_leads hph hfits.2.1

/-- The turn is the engine's only in a running decode. -/
theorem running_of_engineTurn {s : State} (h : s.engineTurn = true) : s.phase.running = true := by
  unfold State.engineTurn at h
  exact (Bool.and_eq_true_iff.1 h).1

theorem step_engineTurn_reaches {s : State} (hinv : s.Inv) (h : s.engineTurn = true) :
    Reaches (Follows s.phase) (step s) :=
  Leads.step (fetch_engineTurn h ▸ nextAction_leads hinv (running_of_engineTurn h))

/-! ## The host's turn -/

theorem step_fault {s : State} {f : Fault} (h : fetch s = .fault f) : step s = .fault f := by simp [step, h]

theorem step_refuse {s : State} {x : Refusal} (h : fetch s = .refuse x) : step s = .refused x := by simp [step, h]

/-- `BUSY` is 0 outside a decode (10_state.md R22, R34). -/
theorem busy_eq_false {s : State} (hinv : s.Inv) (h : s.phase.running = false) : s.busy = false := by
  have hstatus := hinv.status
  unfold State.busy
  cases hph : s.phase <;>
    simp only [hph, Phase.running, Phase.statusAllowed, List.mem_cons, List.not_mem_nil, or_false,
      Bool.true_eq_false] at h hstatus
  case idle => simp [hstatus]
  case done => rcases hstatus with e | e | e <;> simp [e]
  case error => rcases hstatus with e | e <;> simp [e]

/-- The registers the host reads are 0 to 9 (10_state.md R20). -/
theorem readReg?_eq_none {s : State} {r : Nat} (h : s.readReg? r = none) : 9 < r := by
  by_contra hle
  have hr : r ≤ 9 := by omega
  interval_cases r <;> simp [State.readReg?] at h

/-- The registers the host writes, `CTRL` aside, are 3 to 7 (40_host_interface.md R120). -/
theorem writeReg?_eq_none {s : State} {r : Nat} {v : Word} (h : s.writeReg? r v = none) : r < 3 ∨ 7 < r := by
  by_contra hr
  obtain ⟨h3, h7⟩ : 3 ≤ r ∧ r ≤ 7 := by omega
  interval_cases r <;> simp [State.writeReg?] at h

/-- With nothing to do the engine stands still. -/
theorem step_silent {s : State} (hrun : s.phase.running = false) (hh : s.host = []) : step s = .next s := by
  apply step_ok_none
  unfold fetch nextAction
  rw [hh]
  cases hph : s.phase <;> simp [hph, Phase.running] at hrun ⊢

/-- The `STATUS` read and the reset always complete (70_reset_and_hazards.md R320, R324). -/
theorem step_urgent {s : State} {m : HostMove} {rest : List HostMove} (hm : m = .pollStatus ∨ m = .reset)
    (hh : s.host = m :: rest) : ∃ t, step s = .next t := by
  have hf := fetch_urgent hm hh
  rcases hm with rfl | rfl <;> exact ⟨_, step_ok_none hf⟩

section
variable {s : State} {rest : List HostMove}

/-- A host write of one byte completes where the buffer has the address (10_state.md R29). -/
theorem step_of_store {b : Buf} {a : Nat} {v : Byte} {u : State}
    (hf : fetch s = (store b a v u).andThen fun _ t => .ok none t) :
    (∃ t, step s = .next t) ∨ u.capOf b ≤ a ∧ step s = .fault (.addressOutside b a) := by
  rcases store_cases b a v u with ⟨-, he⟩ | ⟨ha, he⟩ <;> rw [he] at hf
  · exact .inl ⟨_, step_ok_none hf⟩
  · exact .inr ⟨ha, step_fault hf⟩

theorem step_writeIn {a : Nat} {v : Byte} (ht : s.hostTurn (.writeIn a v) rest) :
    (∃ t, step s = .next t) ∨ s.cfg.inCap ≤ a ∧ step s = .fault (.addressOutside .inB a) :=
  step_of_store (fetch_hostTurn ht)

theorem step_writeKey {a : Nat} {v : Byte} (ht : s.hostTurn (.writeKey a v) rest) :
    (∃ t, step s = .next t) ∨ s.cfg.keyLen ≤ a ∧ step s = .fault (.addressOutside .key a) :=
  step_of_store (fetch_hostTurn ht)

theorem step_readOut {a : Nat} (ht : s.hostTurn (.readOut a) rest) :
    (∃ t, step s = .next t) ∨ s.cfg.outCap ≤ a ∧ step s = .fault (.addressOutside .out a) := by
  have hf := fetch_hostTurn ht
  rcases load_cases .out a { s with host := rest } with ⟨-, he⟩ | ⟨ha, he⟩ <;> rw [hostMove, he] at hf
  · exact .inl ⟨_, step_ok_none hf⟩
  · exact .inr ⟨ha, step_fault hf⟩

theorem step_readReg {r : Nat} (ht : s.hostTurn (.readReg r) rest) :
    (∃ t, step s = .next t) ∨ 9 < r ∧ step s = .fault (.registerOutside r) := by
  have hf := fetch_hostTurn ht
  cases he : State.readReg? { s with host := rest } r <;> simp only [hostMove, he] at hf
  · exact .inr ⟨readReg?_eq_none he, step_fault hf⟩
  · exact .inl ⟨_, step_ok_none hf⟩

/-- A command to an engine that is not busy completes (40_host_interface.md R121 to R123). -/
theorem step_ctrlWrite {v : Word} (hbusy : s.busy = false) (ht : s.hostTurn (.writeReg 0 v) rest) :
    ∃ t, step s = .next t := by
  obtain ⟨i, effect, hd, hx⟩ := decode_cmd v.isLt
  have hf := fetch_hostTurn ht
  simp only [hostMove, hd, if_true] at hf
  have hb : State.busy { s with host := rest } = false := hbusy
  exact ⟨_, by rw [step_ok_some hf, hx, command, hb]; rfl⟩

theorem step_writeReg {r : Nat} {v : Word} (hbusy : s.busy = false) (ht : s.hostTurn (.writeReg r v) rest) :
    (∃ t, step s = .next t) ∨ 9 < r ∧ step s = .fault (.registerOutside r) ∨
      r ∈ [1, 2, 8, 9] ∧ step s = .refused (.readOnlyRegister r) := by
  by_cases h0 : r = 0
  · subst h0
    exact .inl (step_ctrlWrite hbusy ht)
  have hf := fetch_hostTurn ht
  cases he : State.writeReg? { s with host := rest } r v <;> simp only [hostMove, h0, if_false, he] at hf
  · have hr := writeReg?_eq_none he
    split at hf
    · exact .inr (.inr ⟨by simp only [List.mem_cons, List.not_mem_nil, or_false]; omega, step_refuse hf⟩)
    · exact .inr (.inl ⟨by omega, step_fault hf⟩)
  · exact .inl ⟨_, step_ok_none hf⟩

end

/-- A step that does not complete is the host's, outside a decode. -/
theorem hostTurn_of_stop {s : State} (hinv : s.Inv) (hstop : ∀ t, step s ≠ .next t) :
    ∃ m rest, s.hostTurn m rest := by
  have not_urgent {m : HostMove} {rest : List HostMove} (hh : s.host = m :: rest) :
      ¬ (m = .pollStatus ∨ m = .reset) := fun hm => (step_urgent hm hh).elim hstop
  cases hrun : s.phase.running with
  | true =>
    have hturn : s.engineTurn = true := by
      unfold State.engineTurn
      rw [hrun, Bool.true_and]
      split
      · exact absurd (.inl rfl) (not_urgent ‹_›)
      · exact absurd (.inr rfl) (not_urgent ‹_›)
      · rfl
    obtain ⟨t, ht, -⟩ := step_engineTurn_reaches hinv hturn
    exact absurd ht (hstop t)
  | false =>
    cases hh : s.host with
    | nil => exact absurd (step_silent hrun hh) (hstop s)
    | cons m rest => exact ⟨m, rest, hrun, hh⟩

end Sys2Proof.Machine

namespace Sys2Proof.Proofs
open Sys2Proof.Machine

/-- Settles O52: phase by phase, every operation that the phase's fetch and its row run completes or raises. -/
theorem engineTurnCompletes : Obligations.EngineTurnCompletes :=
  fun _ hinv hturn => step_engineTurn_reaches hinv hturn

/-- Settles O53: the engine's turn completes (O52), and so do the `STATUS` read, the reset and every host move to a
register or an address that exists. -/
theorem stopsOnlyOnHostMisuse : Obligations.StopsOnlyOnHostMisuse := by
  intro s hinv hstop
  obtain ⟨m, rest, ht⟩ := hostTurn_of_stop hinv hstop
  have stops {Q : Prop} (h : (∃ t, step s = .next t) ∨ Q) : Q := h.resolve_left fun ⟨t, hn⟩ => hstop t hn
  refine ⟨m, rest, ht, ?_⟩
  cases m with
  | writeIn a v => exact .inl ⟨a, v, rfl, stops (step_writeIn ht)⟩
  | writeKey a v => exact .inr (.inl ⟨a, v, rfl, stops (step_writeKey ht)⟩)
  | readOut a => exact .inr (.inr (.inl ⟨a, rfl, stops (step_readOut ht)⟩))
  | readReg r => exact .inr (.inr (.inr (.inl ⟨r, rfl, stops (step_readReg ht)⟩)))
  | writeReg r v =>
    rcases stops (step_writeReg (busy_eq_false hinv ht.1) ht) with h | h
    · exact .inr (.inr (.inr (.inr (.inl ⟨r, v, rfl, h⟩))))
    · exact .inr (.inr (.inr (.inr (.inr ⟨r, v, rfl, h⟩))))
  | pollStatus => exact ((step_urgent (.inl rfl) ht.2).elim hstop).elim
  | reset => exact ((step_urgent (.inr rfl) ht.2).elim hstop).elim

end Sys2Proof.Proofs
end

section
/-! SUPPORT. The invariant of well-formed states and the steps that keep it: what a decode error needs of a state, what
a running decode keeps, then phase by phase what the fetch and its row lead to, then the host's moves; after them the
statements of 10_state.md. -/

namespace Sys2Proof.Machine

/-! ## The parts of the invariant -/

/-- A buffer's contents are in canonical form and inside its capacity (10_state.md R29). -/
def Mem.Within (m : Mem) (cap : Nat) : Prop := m.wf = true ∧ ∀ a, cap ≤ a → m.get? a = none

theorem Mem.within_nil (cap : Nat) : Mem.Within [] cap := ⟨rfl, fun _ _ => rfl⟩

theorem Mem.Within.put {m : Mem} {cap a : Nat} (h : m.Within cap) (ha : a < cap) (v : Byte) :
    (m.put a v).Within cap := by
  refine ⟨Mem.wf_put a v h.1, fun c hc => ?_⟩
  rw [Mem.get?_put_other m a c v (by omega)]
  exact h.2 c hc

/-- A working table has its size, and its entries are at most `bound`. -/
def Entries (size bound : Nat) (l : List Nat) : Prop := l.length = size ∧ ∀ k ∈ l, k ≤ bound

theorem entries_replicate (size : Nat) {v bound : Nat} (hv : v ≤ bound) : Entries size bound (List.replicate size v) :=
  ⟨List.length_replicate, fun k hk => by rw [List.eq_of_mem_replicate hk]; exact hv⟩

theorem entries_zero (size bound : Nat) : Entries size bound (List.replicate size 0) :=
  entries_replicate size (Nat.zero_le bound)

/-- The code lengths of 10_state.md R36. -/
def State.codesFit (s : State) : Prop := Entries 288 15 s.llLen ∧ Entries 32 15 s.dLen ∧ Entries 19 7 s.clLen

/-- The pixel tables of 10_state.md R37. -/
def State.pixelsFit (s : State) : Prop :=
  s.ct.length = 4 ∧ Entries 16 3 s.cidx ∧ s.alphaTab.length = 16 ∧ Entries 16 7 s.aidx

/-- The header fields of the current block (10_state.md R33). -/
def State.blockFits (s : State) : Prop := s.bfinal ≤ 1 ∧ s.btype ≤ 3

theorem tablesFit_iff {s : State} : s.TablesFit ↔ s.codesFit ∧ s.pixelsFit ∧ s.blockFits :=
  ⟨fun ⟨ll, d, cl, ct, cidx, alpha, aidx, bf, bt⟩ => ⟨⟨ll, d, cl⟩, ⟨ct, cidx, alpha, aidx⟩, bf, bt⟩,
    fun ⟨⟨ll, d, cl⟩, ⟨ct, cidx, alpha, aidx⟩, bf, bt⟩ => ⟨ll, d, cl, ct, cidx, alpha, aidx, bf, bt⟩⟩

/-- What a decode error needs of the state in which it is raised: all of the invariant that taking the error does not
establish by itself. -/
def State.Sound (s : State) : Prop :=
  s.cfg.wf ∧ s.inBuf.Within s.cfg.inCap ∧ s.keyBuf.Within s.cfg.keyLen ∧ s.fmtSec.toNat < 256 ∧ s.codesFit ∧
    s.pixelsFit ∧ s.blockFits

/-- What a running decode keeps, whatever its phase: no error and no result is there yet. -/
def State.Active (s : State) : Prop :=
  s.Sound ∧ s.rb.Within s.cfg.rbCap ∧ s.raw.Within s.cfg.rawCap ∧ s.out = [] ∧ s.err = 0 ∧ s.outLen = 0 ∧ s.outFmt = 0

theorem State.Sound.withCodes {s : State} (h : s.Sound) {ll d cl : List Nat} (hll : Entries 288 15 ll)
    (hd : Entries 32 15 d) (hcl : Entries 19 7 cl) :
    ({ s with llLen := ll, dLen := d, clLen := cl } : State).Sound := by
  obtain ⟨hcfg, hin, hkey, hsec, -, htab⟩ := h
  exact ⟨hcfg, hin, hkey, hsec, ⟨hll, hd, hcl⟩, htab⟩

theorem State.Sound.withBlock {s : State} (h : s.Sound) {f ty : Nat} (hf : f ≤ 1) (hty : ty ≤ 3) :
    ({ s with bfinal := f, btype := ty } : State).Sound := by
  obtain ⟨hcfg, hin, hkey, hsec, hcodes, hpixels, -⟩ := h
  exact ⟨hcfg, hin, hkey, hsec, hcodes, hpixels, hf, hty⟩

theorem State.Inv.within {s : State} (h : s.Inv) (b : Buf) : (s.mem b).Within (s.capOf b) := ⟨h.canonical b, h.inside b⟩

theorem State.Inv.sound {s : State} (h : s.Inv) : s.Sound :=
  ⟨h.cfg, h.within .inB, h.within .key, h.fmtSec, tablesFit_iff.1 h.tables⟩

theorem State.Active.sound {s : State} (h : s.Active) : s.Sound := by
  obtain ⟨hs, -⟩ := h
  exact hs

theorem State.Inv.active {s : State} (h : s.Inv) (hrun : s.phase.running = true) : s.Active := by
  have herr := h.err
  have hres := h.result
  have hout := h.outEmpty
  cases hph : s.phase <;> simp only [hph, Phase.running, Bool.false_eq_true, reduceCtorEq, if_false, ne_eq,
    not_false_eq_true, forall_const] at hrun herr hres hout
  all_goals exact ⟨h.sound, h.within .rb, h.within .raw, hout, herr, hres⟩

/-- A state is well formed where it is sound and the rest of the invariant holds. -/
theorem inv_of_sound {s : State} (hs : s.Sound) (hrb : s.rb.Within s.cfg.rbCap) (hraw : s.raw.Within s.cfg.rawCap)
    (hout : s.out.Within s.cfg.outCap) (hstatus : s.status ∈ s.phase.statusAllowed)
    (herr : if s.phase = .error then 1 ≤ s.err.toNat ∧ s.err.toNat ≤ 8 else s.err = 0)
    (hres : if s.phase = .done then s.outLen.toNat ≤ s.cfg.outCap ∧ s.outFmt.toNat ≤ 1
      else s.outLen = 0 ∧ s.outFmt = 0)
    (hempty : s.phase ≠ .done → s.out = []) (hfit : s.phaseFits) : s.Inv := by
  obtain ⟨hcfg, hin, hkey, hsec, htab⟩ := hs
  have hbuf : ∀ b, (s.mem b).Within (s.capOf b) := by
    intro b
    cases b
    · exact hin
    · exact hkey
    · exact hrb
    · exact hraw
    · exact hout
  exact ⟨hcfg, fun b => (hbuf b).1, fun b => (hbuf b).2, hsec, hstatus, herr, hres, hempty, tablesFit_iff.2 htab, hfit⟩

/-- A running decode is well formed where `STATUS` and the sequencer are right for its phase. -/
theorem State.Active.inv {s : State} {ph : Phase} (h : s.Active) (hph : s.phase = ph) (hrun : ph.running = true)
    (hstatus : s.status ∈ ph.statusAllowed) (hfit : s.phaseFits) : s.Inv := by
  obtain ⟨hs, hrb, hraw, hout, herr, hlen, hfmt⟩ := h
  have hne : s.phase ≠ .error := by rintro he; rw [← hph, he] at hrun; exact absurd hrun (by decide)
  have hnd : s.phase ≠ .done := by rintro he; rw [← hph, he] at hrun; exact absurd hrun (by decide)
  refine inv_of_sound hs hrb hraw (hout ▸ Mem.within_nil _) (hph ▸ hstatus) ?_ ?_ (fun _ => hout) hfit
  · rw [if_neg hne]
    exact herr
  · rw [if_neg hnd]
    exact ⟨hlen, hfmt⟩

/-! ## The ends and the beginning of a decode -/

theorem obfPart_cases (s : State) : s.obfPart = 0 ∨ s.obfPart = statusObf := by
  have hbit : s.obfPart = if s.status.getLsbD 4 then statusObf else 0 := BitVec.and_twoPow s.status 4
  rw [hbit]
  split
  · exact .inr rfl
  · exact .inl rfl

/-- The end of a decode leaves in `STATUS` its own bit and the `OBF` bit as it stood (10_state.md R22). -/
theorem status_ended (s : State) :
    statusError ||| s.obfPart ∈ Phase.error.statusAllowed ∧ statusDone ||| s.obfPart ∈ Phase.done.statusAllowed := by
  rcases obfPart_cases s with ho | ho <;> rw [ho] <;> decide

theorem errCode_bounds (e : ErrCode) : 1 ≤ e.code.toNat ∧ e.code.toNat ≤ 8 := by
  cases e <;> decide

/-- A decode error leaves a well-formed state (60_exceptions.md R290). -/
theorem inv_takeError {s : State} (h : s.Sound) (e : ErrCode) : (takeError e s).Inv :=
  inv_of_sound h (Mem.within_nil _) (Mem.within_nil _) (Mem.within_nil _) (status_ended s).1 (errCode_bounds e)
    ⟨rfl, rfl⟩ (fun _ => rfl) trivial

/-- START leaves a well-formed state, whatever was there (40_host_interface.md R121). -/
theorem inv_beginDecode {s : State} (h : s.Sound) : (beginDecode s).Inv :=
  inv_of_sound h (Mem.within_nil _) (Mem.within_nil _) (Mem.within_nil _) (List.mem_singleton.2 rfl) rfl
    ⟨rfl, rfl⟩ (fun _ => rfl) trivial

/-- CLEAR leaves a well-formed state (40_host_interface.md R122). -/
theorem inv_clearResult {s : State} (h : s.Inv) : (clearResult s).Inv := by
  have hs := h.sound
  unfold clearResult
  split
  · rename_i hph
    have hrb := h.within .rb
    have hraw := h.within .raw
    have hout := h.outEmpty (by rw [hph]; decide)
    exact inv_of_sound (s := clearRegs s) hs hrb hraw (hout ▸ Mem.within_nil _) (List.mem_singleton.2 rfl) rfl
      ⟨rfl, rfl⟩ (fun _ => hout) trivial
  · exact inv_of_sound (s := clearRegs s.forget) hs (Mem.within_nil _) (Mem.within_nil _) (Mem.within_nil _)
      (List.mem_singleton.2 rfl) rfl ⟨rfl, rfl⟩ (fun _ => rfl) trivial

/-- The end of the decode of an empty asset (40_host_interface.md R125). -/
theorem inv_finishEmpty {s : State} (h : s.Active) : (finishEmpty s).Inv := by
  obtain ⟨hs, -, -, -, herr, -⟩ := h
  exact inv_of_sound hs (Mem.within_nil _) (Mem.within_nil _) (Mem.within_nil _)
    (show statusDone ||| statusEmpty ∈ Phase.done.statusAllowed by decide) herr
    ⟨Nat.zero_le _, Nat.zero_le _⟩ (fun _ => rfl) trivial

/-- The end of a successful decode, of an output of `size` bytes (40_host_interface.md R128). -/
theorem inv_finishDecode {s t : State} {size : Nat} (h : s.Active) (hp : Painted size s t)
    (hsize : size ≤ s.cfg.outCap) (fmt : Nat) : (finishDecode fmt size t).Inv := by
  obtain ⟨⟨hcfg, hin, hkey, hsec, hcodes, ⟨hct, hcidx, halpha, haidx⟩, hblock⟩, -, -, hout, herr, -⟩ := h
  have hpix : t.pixelsFit := ⟨hp.ct hct, hp.cidx hcidx, hp.alphaTab halpha, hp.aidx haidx⟩
  have hsound : t.Sound := by
    rw [hp.same]
    exact ⟨hcfg, hin, hkey, hsec, hcodes, hpix, hblock⟩
  have hpaint : t.out.Within t.cfg.outCap := by
    refine ⟨hp.canonical (by rw [hout]; rfl), fun a ha => ?_⟩
    rw [hp.cfg] at ha
    rw [hp.beyond a (by omega), hout]
    rfl
  have hlen : (BitVec.ofNat 32 size).toNat ≤ t.cfg.outCap := by
    rw [hp.cfg]
    exact (Nat.mod_le _ _).trans hsize
  have hterr : t.err = 0 := by
    rw [hp.same]
    exact herr
  refine inv_of_sound (s := finishDecode fmt size t) hsound (Mem.within_nil _) (Mem.within_nil _) hpaint
    (status_ended t).2 hterr ⟨hlen, ?_⟩ (fun hne => absurd rfl hne) trivial
  rw [finishDecode_outFmt]
  split <;> decide

/-! ## FETCH and DISPATCH -/

/-- An operation that is complete leaves a well-formed state, and one that raises a sound one. -/
abbrev KeepsInv (r : Res Unit) : Prop := r.Sat (fun _ t => t.Inv) (fun _ t => t.Sound) fun _ => False

theorem KeepsInv.reaches {r : Res Unit} (h : KeepsInv r) : Reaches State.Inv r.toOutcome :=
  Res.Sat.reaches h (fun _ ht => ht) fun e _ ht => inv_takeError ht e

theorem Res.Sat.keepsInv {r : Res Unit} {Q : Unit → State → Prop} {E : ErrCode → State → Prop}
    (h : r.Sat Q E fun _ => False) (hQ : ∀ t, Q () t → t.Inv) (hE : ∀ e t, E e t → t.Sound) : KeepsInv r :=
  h.mono (fun _ => hQ) hE fun _ hf => hf

/-- First one operation, then one that keeps the invariant. -/
theorem Res.Sat.andKeepsInv {α : Type} {r : Res α} {k : α → State → Res Unit} {Q : α → State → Prop}
    {E : ErrCode → State → Prop} (h : r.Sat Q E fun _ => False) (hk : ∀ a t, Q a t → KeepsInv (k a t))
    (hE : ∀ e t, E e t → t.Sound) : KeepsInv (r.andThen k) :=
  (h.mono (fun _ _ hq => hq) hE fun _ hf => hf).andThen hk

theorem reaches_error {s : State} (h : s.Sound) (e : ErrCode) : Reaches State.Inv (.next (takeError e s)) :=
  reaches_next (inv_takeError h e)

/-- FETCH establishes that the payload lies in the window (40_host_interface.md R124, R125). -/
theorem fetchPhase_keeps {s : State} (h : s.Active) (hstatus : s.status = 1) : Leads State.Inv (fetchPhase s) := by
  unfold fetchPhase
  split
  · exact leads_err (inv_takeError h.sound _)
  split
  · exact leads_err (inv_takeError h.sound _)
  rw [readL_inside (by omega), Res.andThen_ok]
  dsimp only
  split
  · exact leads_none (inv_finishEmpty (s := { s with p := (s.lField - 1).toNat }) h)
  split
  · exact leads_err (inv_takeError (s := { s with p := (s.lField - 1).toNat }) h.sound _)
  · refine leads_none (h.inv (ph := .dispatch) rfl rfl (by rw [hstatus]; decide) ?_)
    refine ⟨?_, ?_, ?_⟩ <;> dsimp only <;> omega

/-- DISPATCH establishes what the format says of the sizes (43_pixel_formats.md R211, R212; 40_host_interface.md
R126). -/
theorem fetchFormat_keeps {s : State} (h : s.Active) (hph : s.phase = .dispatch) (hstatus : s.status = 1)
    (hpay : s.payloadFits) : Leads State.Inv (fetchFormat s) := by
  unfold fetchFormat
  by_cases hs : s.effectiveFmt ∈ formatCodes
  · obtain ⟨i, hd, hx⟩ := decode_fmt_supported hs
    refine leads_select hd ?_
    rw [hx]
    simp only [formatRow, hph]
    refine KeepsInv.reaches ((dispatchAs_sat _ _).keepsInv ?_ ?_)
    · rintro t ⟨rfl, hdims, hraw, hout⟩
      exact h.inv (ph := .classify) rfl rfl (by rw [hstatus]; decide) ⟨hpay, rfl, hs, rfl, hdims, hraw, hout⟩
    · rintro e t ⟨rfl, -⟩
      exact h.sound
  · exact leads_select (decode_fmt_unsupported (effectiveFmt_lt s) hs)
      (reaches_error (s := { s with fmt := s.effectiveFmt }) h.sound _)

/-! ## CLASSIFY and STRIP -/

/-- CLASSIFY starts the stripper or INFLATE (41_framing.md R142, R143). -/
theorem classify_keeps {s : State} (h : s.Active) (hstatus : s.status = 1) (hpay : s.payloadFits)
    (hform : s.formatFits) (h2 : 2 ≤ s.p) (v : Half) : KeepsInv (classify v s) := by
  unfold classify
  split
  · refine h.inv (ph := .inflate) rfl rfl (by dsimp only; rw [hstatus]; decide) ⟨hpay, hform, ?_⟩
    intro hobf
    simp [State.isObf, statusObf] at hobf
  · exact h.inv (ph := .strip) rfl rfl (by dsimp only; rw [hstatus]; decide)
      ⟨hpay, hform, h2, Nat.zero_le _, .inl ⟨rfl, rfl⟩⟩

/-- The two header bytes lie in `IN` (41_framing.md R141). -/
theorem payloadFits_header {s : State} (h : s.payloadFits) (h2 : 2 ≤ s.p) : 7 ≤ s.cfg.inCap := by
  obtain ⟨-, hwin, hcap⟩ := h
  omega

theorem fetchHeader_keeps {s : State} (h : s.Active) (hph : s.phase = .classify) (hstatus : s.status = 1)
    (hpay : s.payloadFits) (hform : s.formatFits) : Leads State.Inv (fetchHeader s) := by
  unfold fetchHeader
  split
  · exact leads_err (inv_takeError h.sound _)
  rename_i h2
  refine readHeader_leads (payloadFits_header hpay (by omega)) fun v => ?_
  simp only [headerRow, hph]
  exact (classify_keeps h hstatus hpay hform (by omega) v).reaches

/-- What has been stripped of the payload fits into `RB` (41_framing.md R146). -/
theorem stripFits_rbLen {s : State} (hcfg : s.cfg.wf) (hpay : s.payloadFits) (hs : s.stripFits) :
    s.rbLen ≤ s.cfg.rbCap ∧ s.rbLen ≤ s.p := by
  obtain ⟨-, hwin, hcap⟩ := hpay
  obtain ⟨-, -, -, -, -, hrb⟩ := hcfg
  obtain ⟨hpos, ⟨-, h0⟩ | h4⟩ := hs
  · omega
  · have := hrb (by omega)
    omega

/-- The record that the stripper appends stays inside `RB`. -/
theorem Stripped.within {s t : State} {k : Nat} (h : Stripped s k t) (hrb : s.rb.Within s.cfg.rbCap)
    (hk : s.rbLen + k ≤ s.cfg.rbCap) : t.rb.Within t.cfg.rbCap := by
  obtain ⟨m, rfl, hwf, hget⟩ := h
  refine ⟨hwf hrb.1, fun a ha => ?_⟩
  dsimp only at ha ⊢
  rw [hget a (by omega)]
  exact hrb.2 a ha

/-- One turn of the record loop keeps the stripper's bounds (41_framing.md R144, R146). -/
theorem stripTurn_keeps {s : State} (h : s.Active) (hph : s.phase = .strip) (hstatus : s.status = 17)
    (hpay : s.payloadFits) (hform : s.formatFits) (h2 : 2 ≤ s.p) (hs : s.stripFits) : KeepsInv (stripTurn s) := by
  obtain ⟨⟨hcfg, hinputs⟩, hrb, hrest⟩ := id h
  unfold stripTurn
  split
  · exact h.inv (ph := .inflate) rfl rfl (by rw [hstatus]; decide)
      ⟨hpay, hform, fun _ => stripFits_rbLen hcfg hpay hs⟩
  split
  · exact h.sound
  have hroom := stripFits_room hcfg hpay hs (by omega)
  have hwin : 5 + s.p ≤ s.cfg.inCap := by
    obtain ⟨-, hlen, hcap⟩ := hpay
    omega
  rw [memRead_inside (by simp only [capOf_inB]; omega), Res.andThen_ok]
  dsimp only
  split
  · exact h.sound
  generalize s.le .inB (5 + s.inPos) 4 = z at *
  have hrec := stripRecord_sat (s := { s with inPos := s.inPos + 4 }) (z := z) (by dsimp only; omega)
    (by dsimp only; omega)
  refine hrec.andKeepsInv ?_ ?_
  · rintro - t ht
    have hrb' := ht.within hrb (by dsimp only; omega)
    obtain ⟨m, rfl, -⟩ := ht
    refine State.Active.inv (ph := .strip) ⟨⟨hcfg, hinputs⟩, hrb', hrest⟩ hph rfl (by rw [hstatus]; decide) ?_
    simp only [State.phaseFits, hph]
    refine ⟨hpay, hform, h2, ?_⟩
    obtain ⟨-, hcur⟩ := hs
    unfold State.stripFits
    dsimp only
    omega
  · rintro e t ⟨-, -, k, -, m, rfl, -⟩
    exact h.sound

theorem fetchStrip_keeps {s : State} (h : s.Active) (hph : s.phase = .strip) (hstatus : s.status = 17)
    (hpay : s.payloadFits) (hform : s.formatFits) (h2 : 2 ≤ s.p) (hs : s.stripFits) :
    Leads State.Inv (fetchStrip s) := by
  refine readHeader_leads (payloadFits_header hpay h2) fun v => ?_
  simp only [headerRow, hph]
  exact (stripTurn_keeps h hph hstatus hpay hform h2 hs).reaches

/-! ## INFLATE -/

/-- A decode in INFLATE with its stream set up and a byte still wanted, at any place between two rows. -/
def State.Decompressing (s : State) : Prop :=
  s.Active ∧ s.phase = .inflate ∧ s.status ∈ Phase.inflate.statusAllowed ∧ s.payloadFits ∧ s.formatFits ∧ s.streamFits

section
variable {s t : State}

theorem State.Decompressing.sound (h : s.Decompressing) : s.Sound := by
  obtain ⟨hact, -⟩ := h
  exact hact.sound

theorem State.Decompressing.streamFits (h : s.Decompressing) : s.streamFits := by
  obtain ⟨-, -, -, -, -, hstream⟩ := h
  exact hstream

theorem State.Decompressing.withCodes (h : s.Decompressing) {ll d cl : List Nat} (hll : Entries 288 15 ll)
    (hd : Entries 32 15 d) (hcl : Entries 19 7 cl) :
    ({ s with llLen := ll, dLen := d, clLen := cl } : State).Decompressing := by
  obtain ⟨⟨hsound, hact⟩, hrest⟩ := h
  exact ⟨⟨hsound.withCodes hll hd hcl, hact⟩, hrest⟩

theorem State.Decompressing.withBlock (h : s.Decompressing) {f ty : Nat} (hf : f ≤ 1) (hty : ty ≤ 3) :
    ({ s with bfinal := f, btype := ty } : State).Decompressing := by
  obtain ⟨⟨hsound, hact⟩, hrest⟩ := h
  exact ⟨⟨hsound.withBlock hf hty, hact⟩, hrest⟩

theorem State.Decompressing.codesFit (h : s.Decompressing) : s.codesFit := by
  obtain ⟨-, -, -, -, hcodes, -⟩ := h.sound
  exact hcodes

theorem State.Decompressing.inflating (h : s.Decompressing) : Inflating s := by
  obtain ⟨-, hph, -, -, ⟨-, -, -, -, hroom, -⟩, hz, -, hwant⟩ := h
  exact ⟨hph, hz, hwant, hroom⟩

/-- Between two rows a state is well formed where what the place inside INFLATE asks for holds. -/
theorem State.Decompressing.inv (h : s.Decompressing) (hfit : s.inflateFits) : s.Inv := by
  obtain ⟨hact, hph, hstatus, hpay, hform, -⟩ := h
  refine hact.inv hph rfl hstatus ?_
  simp only [State.phaseFits, hph]
  exact ⟨hpay, hform, hfit⟩

theorem State.Decompressing.inv_header (h : s.Decompressing) : ({ s with sub := .header } : State).Inv :=
  State.Decompressing.inv (s := { s with sub := .header }) h h.streamFits

theorem State.Decompressing.inv_litlen (h : s.Decompressing) : ({ s with sub := .litlen } : State).Inv :=
  State.Decompressing.inv (s := { s with sub := .litlen }) h h.streamFits

theorem Advanced.decompressing (h : Advanced s t) (hs : s.Decompressing) : t.Decompressing := by
  obtain ⟨k, -, rfl⟩ := h
  exact hs

theorem Advanced.sound (h : Advanced s t) (hs : s.Sound) : t.Sound := by
  obtain ⟨k, -, rfl⟩ := h
  exact hs

theorem Produced.sound (h : Produced s t) (hs : s.Sound) : t.Sound := by
  rw [h.same]
  exact hs

theorem Produced.active (h : Produced s t) (hs : s.Active) : t.Active := by
  obtain ⟨hsound, hrb, ⟨hwf, hin⟩, hrest⟩ := hs
  have hraw : t.raw.Within s.cfg.rawCap := ⟨h.canonical hwf, h.inside hin⟩
  rw [h.same]
  exact ⟨hsound, hrb, hraw, hrest⟩

/-- Bytes have been produced and the stop rule has not fired. -/
theorem Produced.decompressing (h : Produced s t) (hs : s.Decompressing) (hph : t.phase = s.phase)
    (hwant : t.rawPos < t.n) : t.Decompressing := by
  obtain ⟨hact, hinf, hstatus, hpay, hform, hz, hlen, -⟩ := hs
  have hkept : t.status ∈ Phase.inflate.statusAllowed ∧ t.payloadFits ∧ t.formatFits ∧ t.zLen ≤ t.p := by
    rw [h.same]
    exact ⟨hstatus, hpay, hform, hlen⟩
  obtain ⟨hstatus', hpay', hform', hlen'⟩ := hkept
  exact ⟨h.active hact, hph.trans hinf, hstatus', hpay', hform', h.zInside hz, hlen', hwant⟩

/-- Bytes have been produced and the stop rule has fired (42_deflate.md R164). -/
theorem Produced.inv_repack (h : Produced s t) (hs : s.Decompressing) (hph : t.phase = .repack)
    (hfull : t.rawPos = t.n) : t.Inv := by
  obtain ⟨hact, -, hstatus, hpay, hform, -⟩ := hs
  have hkept : t.status ∈ Phase.inflate.statusAllowed ∧ t.payloadFits ∧ t.formatFits := by
    rw [h.same]
    exact ⟨hstatus, hpay, hform⟩
  obtain ⟨hstatus', hpay', hform'⟩ := hkept
  refine (h.active hact).inv (ph := .repack) hph rfl hstatus' ?_
  simp only [State.phaseFits, hph]
  exact ⟨hpay', hform', hfull⟩

end

/-- The start of INFLATE sets up the stream (41_framing.md R147, 42_deflate.md R160, R184). -/
theorem inv_inflateEntry {s : State} (h : s.Active) (hph : s.phase = .inflate)
    (hstatus : s.status ∈ Phase.inflate.statusAllowed) (hpay : s.payloadFits) (hform : s.formatFits)
    (hentry : s.isObf = true → s.rbLen ≤ s.cfg.rbCap ∧ s.rbLen ≤ s.p) : (inflateEntry s).Inv := by
  unfold inflateEntry
  dsimp only
  split
  · rename_i hn
    exact h.inv (ph := .repack) rfl rfl hstatus ⟨hpay, hform, hn.symm⟩
  rename_i hn
  obtain ⟨hlen, hinside⟩ : (if s.isObf = true then s.rbLen else s.p) ≤ s.p ∧
      if s.isObf = true then (if s.isObf = true then s.rbLen else s.p) ≤ s.cfg.rbCap
      else 5 + (if s.isObf = true then s.rbLen else s.p) ≤ s.cfg.inCap := by
    by_cases ho : s.isObf = true
    · simp only [ho, if_true]
      exact (hentry ho).symm
    · obtain ⟨-, hwin, hcap⟩ := hpay
      simp only [ho, Bool.false_eq_true, if_false]
      omega
  refine h.inv (ph := .inflate) hph rfl hstatus ?_
  simp only [State.phaseFits, hph]
  exact ⟨hpay, hform, hinside, hlen, Nat.pos_of_ne_zero hn⟩

/-! ## The rows of INFLATE -/

section
variable {s : State}

/-- The code lengths of a FIXED block (42_deflate.md R168). -/
theorem fixedLens_fit : Entries 288 15 fixedLitlenLens ∧ Entries 32 15 fixedDistLens := by
  refine ⟨⟨by simp only [fixedLitlenLens, List.length_append, List.length_replicate], fun k hk => ?_⟩,
    entries_replicate 32 (by decide)⟩
  simp only [fixedLitlenLens, List.mem_append, List.mem_replicate] at hk
  omega

theorem execFixed_keeps (h : s.Decompressing) : Reaches State.Inv (execFixed s) := by
  obtain ⟨hll, hd⟩ := fixedLens_fit
  obtain ⟨-, -, hcl⟩ := h.codesFit
  exact reaches_next (h.withCodes hll hd hcl).inv_litlen

theorem storedBlock_keeps (h : s.Decompressing) : KeepsInv (storedBlock s) := by
  obtain ⟨-, hz, hwant, hroom⟩ := h.inflating
  refine (storedBlock_sat hz hwant hroom).keepsInv ?_ fun e t ⟨_, ht, _⟩ => ht.sound h.sound
  rintro t ⟨u, hu, ⟨rfl, hfull, hph⟩ | ⟨rfl, hwant', hph, -⟩⟩
  · exact hu.inv_repack h hph hfull
  · exact (hu.decompressing h hph hwant').inv_header

theorem dynamicBlock_keeps (h : s.Decompressing) : KeepsInv (dynamicBlock s) := by
  obtain ⟨hll, hd, hcl⟩ := h.codesFit
  refine (dynamicBlock_sat h.inflating.stream).keepsInv ?_ ?_
  · rintro t ⟨ht, -, h257, h286, h1, h30, hlen, hle, -⟩
    have hnum : t.nlen ≤ 286 ∧ t.ndist ≤ 30 ∧ 0 < t.nlen + t.ndist ∧ 257 ≤ t.nlen ∧ 1 ≤ t.ndist := by omega
    obtain ⟨hn, hdist, hpos, hn', hdist'⟩ := hnum
    rw [ht]
    refine State.Decompressing.inv (h.withCodes hll hd ⟨hlen, hle⟩) ?_
    exact ⟨h.streamFits, hn, hdist, hpos, hn', hdist', fun l hl => absurd hl List.not_mem_nil⟩
  · rintro e t ⟨-, ht, he⟩
    have hcl' : Entries 19 7 t.clLen := by
      rcases he with he | hcl'
      · rw [he]
        exact hcl
      · exact hcl'
    rw [ht]
    exact h.sound.withCodes hll hd hcl'

/-- A block header's row (30_encoding.md R98). -/
theorem selectBlkhdr_keeps (h : s.Decompressing) {v : Nat} (hv : v < 4) : Leads State.Inv (select .blkhdr v s) := by
  match v, hv with
  | 0, _ => exact leads_select (i := .stored) rfl (storedBlock_keeps h).reaches
  | 1, _ => exact leads_select (i := .fixed) rfl (execFixed_keeps h)
  | 2, _ => exact leads_select (i := .dynamic) rfl (dynamicBlock_keeps h).reaches
  | 3, _ => exact leads_select (i := .btypeReserved) rfl (reaches_error h.sound _)

/-- The numbers of code lengths a dynamic block may announce and those read so far (42_deflate.md R173, R175). -/
def State.lensFit (s : State) : Prop :=
  s.nlen ≤ 286 ∧ s.ndist ≤ 30 ∧ s.lens.length < s.nlen + s.ndist ∧ 257 ≤ s.nlen ∧ 1 ≤ s.ndist ∧ ∀ l ∈ s.lens, l ≤ 15

theorem entries_take_append {l : List Nat} {bound size k : Nat} (hl : ∀ x ∈ l, x ≤ bound) (hlen : k ≤ l.length)
    (hk : k ≤ size) : Entries size bound (l.take k ++ List.replicate (size - k) 0) := by
  refine ⟨by simp only [List.length_append, List.length_take, List.length_replicate]; omega, fun x hx => ?_⟩
  rcases List.mem_append.1 hx with hx | hx
  · exact hl x (List.mem_of_mem_take hx)
  · rw [List.eq_of_mem_replicate hx]
    exact Nat.zero_le _

/-- The complete sequence of code lengths gives tables of the right sizes and entries (42_deflate.md R176). -/
theorem buildTables_keeps (h : s.Decompressing) (hn : s.nlen ≤ 286) (hd : s.ndist ≤ 30)
    (hlen : s.nlen + s.ndist ≤ s.lens.length) (hl : ∀ l ∈ s.lens, l ≤ 15) : KeepsInv (buildTables s) := by
  obtain ⟨-, -, hcl⟩ := h.codesFit
  have hll' : Entries 288 15 (s.lens.take s.nlen ++ List.replicate (288 - s.nlen) 0) :=
    entries_take_append hl (by omega) (by omega)
  have hd' : Entries 32 15 ((s.lens.drop s.nlen).take s.ndist ++ List.replicate (32 - s.ndist) 0) :=
    entries_take_append (fun x hx => hl x (List.mem_of_mem_drop hx)) (by rw [List.length_drop]; omega) (by omega)
  refine (buildTables_sat s).keepsInv ?_ ?_
  · rintro t ⟨ht, hll, hd, -⟩
    rw [ht, hll, hd]
    exact (h.withCodes hll' hd' hcl).inv_litlen
  · rintro e t ⟨-, rfl | rfl⟩
    · exact h.sound
    · exact h.sound.withCodes hll' hd' hcl

/-- Appending code lengths (42_deflate.md R175). -/
theorem appendLens_keeps (h : s.Decompressing) (hsub : s.sub = .codeLens) (hs : s.lensFit) {v : Nat} (hv : v ≤ 15)
    (r : Nat) : KeepsInv (appendLens v r s) := by
  obtain ⟨hn, hd, -, hn', hd', hl⟩ := hs
  have hl' : ∀ l ∈ s.lens ++ List.replicate r v, l ≤ 15 := by
    intro l hmem
    rcases List.mem_append.1 hmem with hmem | hmem
    · exact hl l hmem
    · rw [List.eq_of_mem_replicate hmem]
      exact hv
  have hlen : (s.lens ++ List.replicate r v).length = s.lens.length + r := by
    rw [List.length_append, List.length_replicate]
  rcases Nat.lt_or_ge (s.lens.length + r) (s.nlen + s.ndist) with hmore | hlast
  · rw [appendLens_more hmore]
    refine State.Decompressing.inv (s := { s with lens := s.lens ++ List.replicate r v }) h ?_
    simp only [State.inflateFits, hsub]
    exact ⟨h.streamFits, hn, hd, by rw [hlen]; exact hmore, hn', hd', hl'⟩
  · rw [appendLens_last hlast]
    exact buildTables_keeps (s := { s with lens := s.lens ++ List.replicate r v }) h hn hd
      (by rw [hlen]; exact hlast) hl'

/-- A code-length symbol with extra bits (42_deflate.md R175). -/
theorem repeatSymbol_keeps (h : s.Decompressing) (hsub : s.sub = .codeLens) (hs : s.lensFit) {v : Nat} (hv : v ≤ 15)
    (base extra : Nat) : KeepsInv ((getbits extra s).andThen fun e t => repeatLens v (base + e) t) := by
  refine (getbits_sat extra h.inflating.stream).andKeepsInv ?_ fun e t ht => ht.2.sound h.sound
  rintro e t ⟨-, rfl, -⟩
  rcases repeatLens_cases v (base + e) { s with bitPos := s.bitPos + extra } with ⟨-, he⟩ | ⟨-, he⟩ <;> rw [he]
  · exact h.sound
  · exact appendLens_keeps (s := { s with bitPos := s.bitPos + extra }) h hsub hs hv _

/-- A code-length symbol's row (30_encoding.md R104). -/
theorem selectClsym_keeps (h : s.Decompressing) (hsub : s.sub = .codeLens) (hs : s.lensFit) {v : Nat} (hv : v < 19) :
    Leads State.Inv (select .clsym v s) := by
  by_cases hlit : v < 16
  · exact leads_select (i := .cl0to15 v) (by simp [decode, decodeClsym, hlit])
      (appendLens_keeps h hsub hs (by omega) 1).reaches
  obtain rfl | rfl | rfl : v = 16 ∨ v = 17 ∨ v = 18 := by omega
  · refine leads_select (i := .cl16) rfl ?_
    simp only [exec, execCl16]
    split
    · exact reaches_error h.sound _
    · rename_i l hlast
      obtain ⟨-, -, -, -, -, hl⟩ := id hs
      exact (repeatSymbol_keeps h hsub hs (hl l (List.mem_of_getLast? hlast)) 3 2).reaches
  · exact leads_select (i := .cl17) rfl (repeatSymbol_keeps h hsub hs (Nat.zero_le _) 3 3).reaches
  · exact leads_select (i := .cl18) rfl (repeatSymbol_keeps h hsub hs (Nat.zero_le _) 11 7).reaches

/-- LIT produces a byte (42_deflate.md R164, R178). -/
theorem execLit_keeps (h : s.Decompressing) (hsub : s.sub = .litlen) (b : Byte) : Reaches State.Inv (execLit b s) := by
  obtain ⟨-, -, hwant, hroom⟩ := h.inflating
  refine KeepsInv.reaches ((emit_sat hwant hroom).andKeepsInv ?_ fun _ _ hf => hf.elim)
  rintro stop t ⟨hp, -, -, ht⟩
  cases stop with
  | true => exact hp.inv_repack h ht.2 ht.1
  | false =>
    have hd := hp.decompressing h ht.2 ht.1
    have hsub' : t.sub = .litlen := by rw [hp.same]; exact hsub
    exact hd.inv (by simp only [State.inflateFits, hsub']; exact hd.streamFits)

theorem execEob_keeps (h : s.Decompressing) : Reaches State.Inv (execEob s) := by
  unfold execEob
  rcases endBlock_cases s with ⟨-, he⟩ | ⟨-, he⟩ <;> rw [he]
  · exact reaches_error h.sound _
  · exact reaches_next h.inv_header

/-- The match lengths of 30_encoding.md R102 are 3 to 258. -/
theorem lengthRow_range {i : Instr} {v extra base : Nat} (h : (i, v, extra, base) ∈ lengthRows) :
    3 ≤ base ∧ base + 2 ^ extra ≤ 259 := by
  have hrange : ∀ r ∈ lengthRows, 3 ≤ r.2.2.2 ∧ r.2.2.2 + 2 ^ r.2.2.1 ≤ 259 := by decide
  exact hrange _ h

theorem matchLength_keeps (h : s.Decompressing) {base extra : Nat} (hb : 3 ≤ base) (he : base + 2 ^ extra ≤ 259) :
    KeepsInv (matchLength base extra s) := by
  refine (matchLength_sat base extra h.inflating.stream).keepsInv ?_ fun e t ht => ht.2.sound h.sound
  rintro t ⟨ht, hlo, hhi⟩
  have hml : 3 ≤ t.matchLen ∧ t.matchLen ≤ 258 := by omega
  rw [ht]
  exact State.Decompressing.inv (s := { s with bitPos := s.bitPos + extra, matchLen := t.matchLen, sub := .dist }) h
    ⟨h.streamFits, hml⟩

/-- A literal/length symbol's row (30_encoding.md R101). -/
theorem selectLitlen_keeps (h : s.Decompressing) (hsub : s.sub = .litlen) {v : Nat} (hv : v < 288) :
    Leads State.Inv (select .litlen v s) := by
  by_cases hlit : v < 256
  · exact leads_select (i := .lit (BitVec.ofNat 8 v)) (by simp [decode, decodeLitlen, hlit]) (execLit_keeps h hsub _)
  obtain rfl | ⟨h1, h2⟩ | rfl | rfl : v = 256 ∨ (257 ≤ v ∧ v < 286) ∨ v = 286 ∨ v = 287 := by omega
  · exact leads_select (i := .eob) rfl (execEob_keeps h)
  · obtain ⟨i, extra, base, hrow⟩ := lengthRows_cover h1 h2
    obtain ⟨hb, he⟩ := lengthRow_range hrow
    exact leads_select (decode_lengthRow hrow) (exec_lengthRow hrow s ▸ (matchLength_keeps h hb he).reaches)
  · exact leads_select (i := .litlenInvalid 286) rfl (reaches_error h.sound _)
  · exact leads_select (i := .litlenInvalid 287) rfl (reaches_error h.sound _)

theorem matchDistance_keeps (h : s.Decompressing) {base : Nat} (hb : 1 ≤ base) (extra : Nat) :
    KeepsInv (matchDistance base extra s) := by
  obtain ⟨-, hz, hwant, hroom⟩ := h.inflating
  refine (matchDistance_sat base extra hb hz hwant hroom).keepsInv ?_ fun e t ht => ht.2.sound h.sound
  rintro t ⟨u, hu, ⟨rfl, hfull, hph⟩ | ⟨rfl, hwant', hph⟩⟩
  · exact hu.inv_repack h hph hfull
  · exact (hu.decompressing h hph hwant').inv_litlen

/-- A distance symbol's row (30_encoding.md R103). -/
theorem selectDist_keeps (h : s.Decompressing) {v : Nat} (hv : v < 32) : Leads State.Inv (select .dist v s) := by
  obtain hlt | rfl | rfl : v < 30 ∨ v = 30 ∨ v = 31 := by omega
  · obtain ⟨i, extra, base, hrow⟩ := distanceRows_cover hlt
    exact leads_select (decode_distanceRow hrow)
      (exec_distanceRow hrow s ▸ (matchDistance_keeps h (distanceRow_base_pos hrow) extra).reaches)
  · exact leads_select (i := .distInvalid 30) rfl (reaches_error h.sound _)
  · exact leads_select (i := .distInvalid 31) rfl (reaches_error h.sound _)

/-! ## The fetch in INFLATE -/

/-- A symbol of the code in force is read with nothing but `BITPOS` moved, and its row runs (42_deflate.md R171). -/
theorem readSymbol_keeps (h : s.Decompressing) {lens : List Nat} {size bound : Nat} {f : Format}
    (hlens : Entries size bound lens)
    (hrow : ∀ t, Advanced s t → ∀ v < size, Leads State.Inv (select f v t)) :
    Leads State.Inv ((readSymbol lens s).andThen fun v t => select f v t) := by
  refine (readSymbol_sat lens h.inflating.stream).leads ?_ fun e t ht => inv_takeError (ht.2.sound h.sound) e
  rintro v t ⟨hv, hadv, -⟩
  exact hrow t hadv v (hlens.1 ▸ hv)

/-- A block header is read, and its row runs (42_deflate.md R166). -/
theorem readBlockHeader_keeps (h : s.Decompressing) :
    Leads State.Inv ((readBlockHeader s).andThen fun v t => select .blkhdr v t) := by
  obtain ⟨-, -, -, -, -, -, hfin, hty⟩ := h.sound
  refine (readBlockHeader_sat h.inflating.stream).leads ?_ ?_
  · rintro v t ⟨hv, f, hf, rfl⟩
    exact selectBlkhdr_keeps (s := { s with bitPos := s.bitPos + 3, bfinal := f, btype := v })
      (h.withBlock (Nat.le_of_lt_succ hf) (Nat.le_of_lt_succ hv)) hv
  · rintro e t ⟨-, ht, hf⟩
    have hf' : t.bfinal ≤ 1 := by omega
    refine inv_takeError ?_ e
    rw [ht]
    exact h.sound.withBlock hf' hty

/-- INFLATE, at each place inside it (42_deflate.md R160, R166, R175, R178). -/
theorem fetchInflate_keeps (h : s.Active) (hph : s.phase = .inflate) (hstatus : s.status ∈ Phase.inflate.statusAllowed)
    (hpay : s.payloadFits) (hform : s.formatFits) (hi : s.inflateFits) : Leads State.Inv (fetchInflate s) := by
  have decompressing (hs : s.streamFits) : s.Decompressing := ⟨h, hph, hstatus, hpay, hform, hs⟩
  obtain ⟨-, -, -, -, ⟨hll, hd, hcl⟩, -⟩ := h.sound
  unfold State.inflateFits at hi
  unfold fetchInflate
  cases hsub : s.sub <;> simp only [hsub] at hi ⊢
  case entry => exact leads_none (inv_inflateEntry h hph hstatus hpay hform hi)
  case header => exact readBlockHeader_keeps (decompressing hi)
  case codeLens =>
    obtain ⟨hs, hlens⟩ := hi
    refine readSymbol_keeps (decompressing hs) hcl ?_
    rintro t ⟨k, -, rfl⟩ v hv
    exact selectClsym_keeps (s := { s with bitPos := k }) (decompressing hs) hsub hlens hv
  case litlen =>
    refine readSymbol_keeps (decompressing hi) hll ?_
    rintro t ⟨k, -, rfl⟩ v hv
    exact selectLitlen_keeps (s := { s with bitPos := k }) (decompressing hi) hsub hv
  case dist =>
    refine readSymbol_keeps (decompressing hi.1) hd fun t ht v hv => ?_
    exact selectDist_keeps (ht.decompressing (decompressing hi.1)) hv

end

/-! ## REPACK and the engine's turn -/

/-- REPACK ends the decode (40_host_interface.md R128). -/
theorem fetchRepack_keeps {s : State} (h : s.Active) (hph : s.phase = .repack) (hform : s.formatFits) :
    Leads State.Inv (fetchRepack s) := by
  obtain ⟨-, hcode, -, -, -, hout⟩ := id hform
  obtain ⟨i, hd, hx⟩ := decode_fmt_supported hcode
  refine leads_select hd ?_
  rw [hx]
  simp only [formatRow, hph]
  refine KeepsInv.reaches ((repackOf_paints hform).andKeepsInv ?_ fun _ _ hf => hf.elim)
  exact fun _ t ht => inv_finishDecode h ht hout _

/-- In a running decode the next action leads to a well-formed state. -/
theorem nextAction_keeps {s : State} (hinv : s.Inv) (hrun : s.phase.running = true) :
    Leads State.Inv (nextAction s) := by
  have hact := hinv.active hrun
  have hfits := hinv.phase
  have hstatus := hinv.status
  unfold State.phaseFits at hfits
  unfold nextAction
  cases hph : s.phase <;> simp only [hph, Phase.running, Bool.false_eq_true] at hfits hstatus hrun ⊢
  case fetch => exact fetchPhase_keeps hact (List.mem_singleton.1 hstatus)
  case dispatch => exact fetchFormat_keeps hact hph (List.mem_singleton.1 hstatus) hfits
  case classify =>
    obtain ⟨hpay, hform⟩ := hfits
    exact fetchHeader_keeps hact hph (List.mem_singleton.1 hstatus) hpay hform
  case strip =>
    obtain ⟨hpay, hform, h2, hstrip⟩ := hfits
    exact fetchStrip_keeps hact hph (List.mem_singleton.1 hstatus) hpay hform h2 hstrip
  case inflate =>
    obtain ⟨hpay, hform, hinf⟩ := hfits
    exact fetchInflate_keeps hact hph hstatus hpay hform hinf
  case repack =>
    obtain ⟨-, hform, -⟩ := hfits
    exact fetchRepack_keeps hact hph hform

/-! ## Reset -/

/-- The reset state is well formed where the parameters are (10_state.md R39). -/
theorem inv_resetWith {c : Config} (h : c.wf) : (State.resetWith c).Inv := by
  have hcodes : (State.resetWith c).codesFit := ⟨entries_zero 288 15, entries_zero 32 15, entries_zero 19 7⟩
  have hpixels : (State.resetWith c).pixelsFit :=
    ⟨List.length_replicate, entries_zero 16 3, List.length_replicate, entries_zero 16 7⟩
  have hsound : (State.resetWith c).Sound :=
    ⟨h, Mem.within_nil _, Mem.within_nil _, Nat.zero_lt_succ 255, hcodes, hpixels, Nat.zero_le _, Nat.zero_le _⟩
  exact inv_of_sound hsound (Mem.within_nil _) (Mem.within_nil _) (Mem.within_nil _) (List.mem_singleton.2 rfl) rfl
    ⟨rfl, rfl⟩ (fun _ => rfl) trivial

theorem readReg?_resetWith (c : Config) {r : Nat} (hr : r ≤ 9) : (State.resetWith c).readReg? r = some 0 := by
  interval_cases r <;> rfl

theorem busy_resetWith (c : Config) : (State.resetWith c).busy = false := BitVec.getLsbD_zero

/-- A reset move leads to the reset state of the same parameters (70_reset_and_hazards.md R320). -/
theorem step_reset {s : State} {rest : List HostMove} (hh : s.host = .reset :: rest) :
    step s = .next (s.coldReset rest) := step_ok_none (fetch_urgent (.inr rfl) hh)

/-- A `STATUS` read puts `STATUS` where the host finds it (70_reset_and_hazards.md R324). -/
theorem step_pollStatus {s : State} {rest : List HostMove} (hh : s.host = .pollStatus :: rest) :
    step s = .next { s with host := rest, rdata := s.status } := step_ok_none (fetch_urgent (.inl rfl) hh)

/-! ## The host's moves -/

/-- The invariant says nothing of the host's queue, of what it has read, and of the free values. -/
theorem State.Inv.aside {s : State} (h : s.Inv) (q : List HostMove) (v : Word) (r f : Nat) :
    ({ s with host := q, rdata := v, resets := r, forgets := f } : State).Inv :=
  inv_of_sound h.sound (h.within .rb) (h.within .raw) (h.within .out) h.status h.err h.result h.outEmpty h.phase

theorem inv_coldReset {s : State} (h : s.Inv) (rest : List HostMove) : (s.coldReset rest).Inv :=
  (inv_resetWith h.cfg).aside _ _ _ _

/-- Outside a decode the invariant asks nothing of the sequencer. -/
theorem phaseFits_of_resting {s : State} (h : s.phase.running = false) : s.phaseFits := by
  unfold State.phaseFits
  cases hph : s.phase <;> simp [hph, Phase.running] at h ⊢

/-- Outside a decode the host may change the descriptor, `IN` and `KEY` (40_host_interface.md R120). -/
theorem State.Inv.inputs {s t : State} (h : s.Inv) (hrun : s.phase.running = false)
    (hsame : t = { s with
      width := t.width, height := t.height, fmtPri := t.fmtPri, fmtSec := t.fmtSec, inLen := t.inLen
      inBuf := t.inBuf, keyBuf := t.keyBuf })
    (hin : t.inBuf.Within s.cfg.inCap) (hkey : t.keyBuf.Within s.cfg.keyLen) (hsec : t.fmtSec.toNat < 256) : t.Inv := by
  obtain ⟨hcfg, -, -, -, htab⟩ := h.sound
  rw [hsame]
  exact inv_of_sound ⟨hcfg, hin, hkey, hsec, htab⟩ (h.within .rb) (h.within .raw) (h.within .out) h.status h.err
    h.result h.outEmpty (phaseFits_of_resting hrun)

/-- Where what has been fetched runs to a next state, that state meets `P`; unlike `Leads` it may also stop. -/
def LeadsOnly (P : State → Prop) : Res (Option Instr) → Prop
  | .ok (some i) t => ∀ u, exec i t = .next u → P u
  | .ok none t => P t
  | .err e t => P (takeError e t)
  | .fault _ => True
  | .refuse _ => True

theorem LeadsOnly.step {P : State → Prop} {s t : State} (h : LeadsOnly P (fetch s)) (ht : step s = .next t) : P t := by
  unfold Machine.step at ht
  revert h ht
  cases fetch s with
  | ok i u =>
    cases i with
    | none => rintro h ⟨⟩; exact h
    | some i => exact fun h ht => h t ht
  | err e u => rintro h ⟨⟩; exact h
  | fault f => rintro - ⟨⟩
  | refuse x => rintro - ⟨⟩

/-- A `CTRL` write is one of the four commands (30_encoding.md R91). -/
theorem decode_cmd_mem {v : Nat} {i : Instr} (h : decode .cmd v = .ok i) :
    i ∈ [Instr.nop, .start, .clear, .clearStart] := by
  simp only [decode, decodeCmd] at h
  split at h
  · split at h <;> cases h <;> simp
  · cases h

/-- Each of the four rows is a command, whose effect keeps the invariant (40_host_interface.md R121 to R123). -/
theorem exec_command {i : Instr} (h : i ∈ [Instr.nop, .start, .clear, .clearStart]) :
    ∃ effect, (∀ s, exec i s = command effect s) ∧ ∀ s, s.Inv → (effect s).Inv := by
  simp only [List.mem_cons, List.not_mem_nil, or_false] at h
  rcases h with rfl | rfl | rfl | rfl
  · exact ⟨_, fun _ => rfl, fun _ hs => hs⟩
  · exact ⟨_, fun _ => rfl, fun _ hs => inv_beginDecode hs.sound⟩
  · exact ⟨_, fun _ => rfl, fun _ hs => inv_clearResult hs⟩
  · exact ⟨_, fun _ => rfl, fun s hs => inv_beginDecode (s := clearRegs s) hs.sound⟩

theorem exec_command_keeps {v : Nat} {i : Instr} {s t : State} (hd : decode .cmd v = .ok i) (h : s.Inv)
    (ht : exec i s = .next t) : t.Inv := by
  obtain ⟨effect, hx, hkeep⟩ := exec_command (decode_cmd_mem hd)
  rw [hx, command] at ht
  split at ht
  · cases ht
  · cases ht
    exact hkeep s h

theorem writeReg?_keeps {s t : State} {r : Nat} {v : Word} (h : s.Inv) (hrun : s.phase.running = false)
    (ht : s.writeReg? r v = some t) : t.Inv := by
  have hsec : (v &&& 0xFF).toNat < 256 := by
    rw [BitVec.toNat_and]
    exact Nat.lt_of_le_of_lt Nat.and_le_right (by decide)
  unfold State.writeReg? at ht
  split at ht <;> cases ht
  · exact h.inputs hrun rfl (h.within .inB) (h.within .key) h.fmtSec
  · exact h.inputs hrun rfl (h.within .inB) (h.within .key) h.fmtSec
  · exact h.inputs hrun rfl (h.within .inB) (h.within .key) h.fmtSec
  · exact h.inputs hrun rfl (h.within .inB) (h.within .key) hsec
  · exact h.inputs hrun rfl (h.within .inB) (h.within .key) h.fmtSec

/-- A move of the host outside a decode leads to well-formed states only (40_host_interface.md R120). -/
theorem hostMove_keeps {s : State} (h : s.Inv) (hrun : s.phase.running = false) (m : HostMove) :
    LeadsOnly State.Inv (hostMove m s) := by
  cases m with
  | writeReg r v =>
    unfold hostMove
    dsimp only
    split
    · split
      · exact fun t ht => exec_command_keeps ‹_› h ht
      · trivial
    · split
      · exact writeReg?_keeps h hrun ‹_›
      · split <;> trivial
  | writeIn a v =>
    rcases store_cases .inB a v s with ⟨ha, he⟩ | ⟨-, he⟩ <;> rw [hostMove, he]
    · exact h.inputs hrun rfl ((h.within .inB).put ha v) (h.within .key) h.fmtSec
    · trivial
  | writeKey a v =>
    rcases store_cases .key a v s with ⟨ha, he⟩ | ⟨-, he⟩ <;> rw [hostMove, he]
    · exact h.inputs hrun rfl (h.within .inB) ((h.within .key).put ha v) h.fmtSec
    · trivial
  | readReg r =>
    unfold hostMove
    dsimp only
    split
    · exact h.aside _ _ _ _
    · trivial
  | readOut a =>
    rcases load_cases .out a s with ⟨-, he⟩ | ⟨-, he⟩ <;> rw [hostMove, he]
    · exact h.aside _ _ _ _
    · trivial
  | pollStatus => exact h.aside _ _ _ _
  | reset => exact inv_coldReset h _

/-- Whose turn it is: nobody's, the engine's, the host's, or that of a move which goes first (log 1, log 15). -/
theorem turn_cases (s : State) :
    (s.phase.running = false ∧ s.host = []) ∨ s.engineTurn = true ∨ (∃ m rest, s.hostTurn m rest) ∨
      ∃ rest, s.host = .pollStatus :: rest ∨ s.host = .reset :: rest := by
  unfold State.engineTurn State.hostTurn
  cases hrun : s.phase.running with
  | false =>
    cases hh : s.host with
    | nil => exact .inl ⟨rfl, rfl⟩
    | cons m rest => exact .inr (.inr (.inl ⟨m, rest, rfl, rfl⟩))
  | true =>
    rw [Bool.true_and]
    split
    · exact .inr (.inr (.inr ⟨_, .inl ‹_›⟩))
    · exact .inr (.inr (.inr ⟨_, .inr ‹_›⟩))
    · exact .inr (.inl rfl)

/-- Every step keeps a state well formed. -/
theorem step_keeps_inv {s t : State} (h : s.Inv) (ht : step s = .next t) : t.Inv := by
  rcases turn_cases s with ⟨hrun, hh⟩ | hturn | ⟨m, rest, hm⟩ | ⟨rest, hh | hh⟩
  · rw [step_silent hrun hh] at ht
    cases ht
    exact h
  · have hlead := nextAction_keeps h (running_of_engineTurn hturn)
    obtain ⟨u, hu, hinv⟩ := Leads.step (fetch_engineTurn hturn ▸ hlead)
    rw [hu] at ht
    cases ht
    exact hinv
  · have hlead := hostMove_keeps (s := { s with host := rest }) (h.aside rest s.rdata s.resets s.forgets) hm.1 m
    exact LeadsOnly.step (fetch_hostTurn hm ▸ hlead) ht
  · rw [step_pollStatus hh] at ht
    cases ht
    exact h.aside _ _ _ _
  · rw [step_reset hh] at ht
    cases ht
    exact inv_coldReset h rest

/-! ## What `STATUS` shows -/

/-- The bits of `STATUS` in each phase (10_state.md R22, R34). -/
theorem statusAllowed_bits {ph : Phase} {v : Word} (h : v ∈ ph.statusAllowed) :
    v.getLsbD 0 = ph.running ∧ (v.getLsbD 1 = true ↔ ph = .done) ∧ (v.getLsbD 2 = true ↔ ph = .error) ∧
      (v.getLsbD 3 = true → v.getLsbD 1 = true) ∧ v.toNat < 32 := by
  revert v
  cases ph <;> simp [Phase.statusAllowed, Phase.running]

/-- A decode error ends the decode with `STATUS.ERROR` set (60_exceptions.md R290). -/
theorem takeError_ended (e : ErrCode) (s : State) : (takeError e s).ended ∧ (takeError e s).isError = true := by
  obtain ⟨hbusy, hdone, herror, -⟩ := statusAllowed_bits (status_ended s).1
  have hset := herror.2 rfl
  exact ⟨⟨hbusy, .inr ⟨Bool.eq_false_iff.2 fun h => absurd (hdone.1 h) (by decide), hset⟩⟩, hset⟩

theorem err_zero {s : State} (h : s.Inv) (hne : s.phase ≠ .error) : s.err = 0 := by
  have herr := h.err
  rw [if_neg hne] at herr
  exact herr

/-! ## What a step runs -/

/-- A `CTRL` write runs the command it selects, once the move is taken (40_host_interface.md R120). -/
theorem step_command {s : State} {v : Word} {rest : List HostMove} {i : Instr}
    (ht : s.hostTurn (.writeReg 0 v) rest) (hd : decode .cmd v.toNat = .ok i) :
    step s = exec i { s with host := rest } :=
  step_ok_some (by rw [fetch_hostTurn ht, hostMove, if_pos rfl, hd])

section
variable {s : State}

theorem nextAction_dispatch (h : s.phase = .dispatch) : nextAction s = fetchFormat s := by simp only [nextAction, h]

theorem nextAction_classify (h : s.phase = .classify) : nextAction s = fetchHeader s := by simp only [nextAction, h]

theorem nextAction_strip (h : s.phase = .strip) : nextAction s = fetchStrip s := by simp only [nextAction, h]

theorem nextAction_inflate (h : s.phase = .inflate) : nextAction s = fetchInflate s := by simp only [nextAction, h]

theorem nextAction_repack (h : s.phase = .repack) : nextAction s = fetchRepack s := by simp only [nextAction, h]

end

/-- In the engine's turn the value that the next action reads selects the row that runs. -/
theorem step_of_select {s t : State} {f : Format} {v : Nat} {i : Instr} (hturn : s.engineTurn = true)
    (hnext : nextAction s = select f v t) (hd : decode f v = .ok i) : step s = exec i t :=
  step_ok_some (by rw [fetch_engineTurn hturn, hnext, select_ok hd])

theorem readHeader_inside {s : State} (h : 7 ≤ s.cfg.inCap) : readHeader s = .ok (s.le .inB 5 2) s :=
  memRead_inside (b := .inB) h

/-- A block header before the end of `Z` (42_deflate.md R166). -/
theorem readBlockHeader_inside {s : State} (hz : s.zInside) (h : s.bitPos + 3 ≤ 8 * s.zLen) :
    readBlockHeader s = .ok (s.zField (s.bitPos + 1) 2) { s with
      bitPos := s.bitPos + 3, bfinal := s.zBit s.bitPos, btype := s.zField (s.bitPos + 1) 2 } := by
  have hbits := getbits_inside (n := 2) (s := { s with bitPos := s.bitPos + 1, bfinal := s.zBit s.bitPos }) hz
    (by dsimp only; omega)
  unfold readBlockHeader
  rw [getbit_inside hz (by omega), Res.andThen_ok, hbits, Res.andThen_ok]
  rfl

theorem fetchInflate_header {s : State} (h : s.sub = .header) :
    fetchInflate s = (readBlockHeader s).andThen fun v t => select .blkhdr v t := by simp only [fetchInflate, h]

/-- A symbol of the code in force (42_deflate.md R175, R178, R180). -/
theorem fetchInflate_symbol {s t : State} {f : Format} {lens : List Nat} {v : Nat}
    (hsub : s.sub = .codeLens ∧ f = .clsym ∧ lens = s.clLen ∨ s.sub = .litlen ∧ f = .litlen ∧ lens = s.llLen ∨
      s.sub = .dist ∧ f = .dist ∧ lens = s.dLen)
    (hv : readSymbol lens s = .ok v t) : fetchInflate s = select f v t := by
  unfold fetchInflate
  rcases hsub with ⟨hs, rfl, rfl⟩ | ⟨hs, rfl, rfl⟩ | ⟨hs, rfl, rfl⟩ <;>
    simp only [hs, hv, Res.andThen_ok]

/-- START at an engine that is not busy (40_host_interface.md R121). -/
theorem exec_start_free {s : State} (h : s.busy = false) : exec .start s = .next (beginDecode s) := by
  simp [exec, execStart, command, h]

/-- A window of fewer than five bytes holds no length field (40_host_interface.md R124). -/
theorem fetchPhase_short {s : State} (hcap : s.inLen.toNat ≤ s.cfg.inCap) (h : s.inLen.toNat < 5) :
    fetchPhase s = .err .source s := by
  unfold fetchPhase
  rw [if_neg (by omega), if_pos h]

end Sys2Proof.Machine

namespace Sys2Proof.Proofs
open Sys2Proof.Machine

/-- Settles O50: the reset tables are zeros of their full length and every buffer is empty. -/
theorem resetInv : Obligations.ResetInv := by
  have hstd : Config.standard.wf := by decide
  exact ⟨fun _ => inv_resetWith, hstd, inv_resetWith hstd⟩

/-- Settles O51: phase by phase, every operation that a step runs completes in a well-formed state or raises in a sound
one. -/
theorem stepKeepsInv : Obligations.StepKeepsInv := fun _ _ h ht => step_keeps_inv h ht

/-- Settles O17: the flags are read off the values that the invariant allows `STATUS` in each phase. -/
theorem statusShowsPhase : Obligations.StatusShowsPhase := by
  intro s h
  obtain ⟨hbusy, hdone, herror, hempty, hbits⟩ := statusAllowed_bits h.status
  exact ⟨hbusy, hdone, herror, hempty, hbits, err_zero h, fun _ hh => step_pollStatus hh⟩

/-- Settles O5: at each place a value is fetched from, the fetch selects the row that the value decodes to. -/
theorem stepRunsDecoded : Obligations.StepRunsDecoded := by
  refine ⟨fun s v rest i ht hd => step_command ht hd, ?dispatch, ?classify, ?strip, ?header, ?symbol, ?repack⟩
  case dispatch =>
    intro s i hturn hph hd
    exact step_of_select hturn (nextAction_dispatch hph) hd
  case classify =>
    intro s i hturn hph hp hin hd
    refine step_of_select hturn ?_ hd
    rw [nextAction_classify hph, fetchHeader, if_neg (by omega), readHeader_inside hin, Res.andThen_ok]
  case strip =>
    intro s i hturn hph hin hd
    refine step_of_select hturn ?_ hd
    rw [nextAction_strip hph, fetchStrip, readHeader_inside hin, Res.andThen_ok]
  case header =>
    intro s i hturn hph hsub hz hbits hd
    refine step_of_select hturn ?_ hd
    rw [nextAction_inflate hph, fetchInflate_header hsub, readBlockHeader_inside hz hbits, Res.andThen_ok]
  case symbol =>
    intro s t f lens v i hturn hph hsub hv hd
    exact step_of_select hturn ((nextAction_inflate hph).trans (fetchInflate_symbol hsub hv)) hd
  case repack =>
    intro s i hturn hph hd
    exact step_of_select hturn (nextAction_repack hph) hd

/-- Settles O10: a reset move leads to the reset state of the same parameters. -/
theorem resetState : Obligations.ResetState :=
  ⟨fun c => ⟨rfl, fun _ hr => readReg?_resetWith c hr⟩, rfl,
    fun s _ hh => ⟨_, step_reset hh, rfl, fun _ hr => readReg?_resetWith s.cfg hr, rfl, rfl⟩⟩

/-- Settles O11: the first step is START, the second finds no byte in the window. -/
theorem startAfterReset : Obligations.StartAfterReset := by
  intro c
  have hd : decode .cmd (1 : Word).toNat = .ok .start := rfl
  have hcommand := step_command (s := { State.resetWith c with host := [.writeReg 0 1] }) ⟨rfl, rfl⟩ hd
  have hstart := hcommand.trans (exec_start_free (s := { State.resetWith c with host := [] }) (busy_resetWith c))
  have hshort : fetchPhase (beginDecode (State.resetWith c)) = .err .source (beginDecode (State.resetWith c)) :=
    fetchPhase_short (Nat.zero_le _) (Nat.zero_lt_succ 4)
  have herror := step_err ((fetch_engineTurn (s := beginDecode (State.resetWith c)) rfl).trans hshort)
  obtain ⟨hended, hset⟩ := takeError_ended .source (beginDecode (State.resetWith c))
  exact ⟨_, ⟨_, hstart, _, herror, rfl⟩, hended, hset, rfl⟩

/-- Settles O15: each of the four rows is a command, and a command tests `BUSY` first. -/
theorem commandWhileBusy : Obligations.CommandWhileBusy := by
  intro i hi s hbusy
  obtain ⟨effect, hx, -⟩ := exec_command hi
  rw [hx, command, if_pos hbusy]

end Sys2Proof.Proofs
end

section
/-! SUPPORT. What the engine only reads: the parameters, the descriptor, `IN`, `KEY` and the host, which no row and no
action of the sequencer changes, and `RB`, which only the stripper writes; then the statement of 20_memory.md. -/

namespace Sys2Proof.Machine

/-! ## What a decode only reads -/

/-- The parameters, the descriptor, `IN`, `KEY` and the host, as one value (20_memory.md R74). -/
def State.inputs (s : State) :
    Config × Word × Word × Word × Word × Word × Mem × Mem × Nat × List HostMove × Word :=
  (s.cfg, s.width, s.height, s.fmtPri, s.fmtSec, s.inLen, s.inBuf, s.keyBuf, s.resets, s.host, s.rdata)

theorem inputsKept_iff {s t : State} : InputsKept s t ↔ t.inputs = s.inputs := by
  simp only [InputsKept, State.inputs, Prod.mk.injEq]

/-- The contents of `RB`: its written bytes and the index of its free values (log 9). -/
def State.stripped (s : State) : Mem × Nat := (s.rb, s.forgets)

/-- What the phases other than STRIP only read: the inputs and `RB`. -/
def State.readOnly (s : State) := (s.inputs, s.stripped)

theorem inputs_of_readOnly {s t : State} (h : t.readOnly = s.readOnly) : t.inputs = s.inputs := congrArg Prod.fst h

theorem byteAt_inB_of_inputs {s t : State} (h : t.inputs = s.inputs) (a : Nat) : t.byteAt .inB a = s.byteAt .inB a := by
  obtain ⟨-, -, -, -, -, -, hin, -, hresets, -⟩ := inputsKept_iff.2 h
  simp only [State.byteAt, mem_inB, ageOf_inB, hin, hresets]

theorem byteAt_key_of_inputs {s t : State} (h : t.inputs = s.inputs) (a : Nat) : t.byteAt .key a = s.byteAt .key a := by
  obtain ⟨-, -, -, -, -, -, -, hkey, hresets, -⟩ := inputsKept_iff.2 h
  simp only [State.byteAt, mem_key, ageOf_key, hkey, hresets]

theorem byteAt_rb_of_readOnly {s t : State} (h : t.readOnly = s.readOnly) (a : Nat) :
    t.byteAt .rb a = s.byteAt .rb a := by
  obtain ⟨hrb, hforgets⟩ : t.rb = s.rb ∧ t.forgets = s.forgets := Prod.mk.inj (congrArg Prod.snd h)
  simp only [State.byteAt, mem_rb, ageOf_rb, hrb, hforgets]

/-- What a step of the engine from `s` to `t` leaves alone: the inputs, and outside STRIP, while the decode goes on,
`RB` too (20_memory.md R74). -/
def KeepsReadOnly (s t : State) : Prop :=
  t.inputs = s.inputs ∧ (s.phase ≠ .strip → t.phase.running = true → t.readOnly = s.readOnly)

section
variable {s t : State}

theorem keeps_of_readOnly (h : t.readOnly = s.readOnly) : KeepsReadOnly s t := ⟨inputs_of_readOnly h, fun _ _ => h⟩

/-- The end of a decode may lose `RB` (93_implementation_defined.md U2). -/
theorem keeps_of_ended (h : t.inputs = s.inputs) (hend : t.phase.running = false) : KeepsReadOnly s t :=
  ⟨h, fun _ hrun => absurd (hend.symm.trans hrun) Bool.false_ne_true⟩

theorem keeps_takeError (e : ErrCode) (h : t.inputs = s.inputs) : KeepsReadOnly s (takeError e t) :=
  keeps_of_ended (t := takeError e t) h rfl

theorem keeps_of_strip (hph : s.phase = .strip) (h : t.inputs = s.inputs) : KeepsReadOnly s t :=
  ⟨h, fun hne => absurd hph hne⟩

/-! ## The relations of the operations -/

theorem Advanced.readOnly (h : Advanced s t) : t.readOnly = s.readOnly := by
  obtain ⟨k, -, rfl⟩ := h
  rfl

theorem Produced.readOnly (h : Produced s t) : t.readOnly = s.readOnly := (congrArg State.readOnly h.same).trans rfl

theorem Painted.inputs {hi : Nat} (h : Painted hi s t) : t.inputs = s.inputs := (congrArg State.inputs h.same).trans rfl

theorem Stripped.inputs {k : Nat} (h : Stripped s k t) : t.inputs = s.inputs := by
  obtain ⟨m, rfl, -⟩ := h
  rfl

/-- An operation that, complete or raising, writes nothing of what the phases other than STRIP only read. -/
abbrev OnlyReads (s : State) (r : Res Unit) : Prop :=
  r.Sat (fun _ t => t.readOnly = s.readOnly) (fun _ t => t.readOnly = s.readOnly) fun _ => False

theorem OnlyReads.reaches {r : Res Unit} (h : OnlyReads s r) : Reaches (KeepsReadOnly s) r.toOutcome :=
  Res.Sat.reaches h (fun _ ht => keeps_of_readOnly ht) fun e _ ht => keeps_takeError e (inputs_of_readOnly ht)

theorem reaches_raise (s : State) (e : ErrCode) : Reaches (KeepsReadOnly s) (.next (takeError e s)) :=
  reaches_next (keeps_takeError e rfl)

end

/-! ## FETCH, DISPATCH and CLASSIFY -/

theorem fetchPhase_readOnly (s : State) : Leads (KeepsReadOnly s) (fetchPhase s) := by
  unfold fetchPhase
  split
  · exact leads_err (keeps_takeError _ rfl)
  split
  · exact leads_err (keeps_takeError _ rfl)
  rw [readL_inside (by omega), Res.andThen_ok]
  dsimp only
  split
  · exact leads_none (keeps_of_ended rfl rfl)
  split
  · exact leads_err (keeps_takeError _ rfl)
  · exact leads_none (keeps_of_readOnly rfl)

theorem fetchFormat_readOnly {s : State} (hph : s.phase = .dispatch) : Leads (KeepsReadOnly s) (fetchFormat s) := by
  unfold fetchFormat
  by_cases hs : s.effectiveFmt ∈ formatCodes
  · obtain ⟨i, hd, hx⟩ := decode_fmt_supported hs
    refine leads_select hd ?_
    rw [hx]
    simp only [formatRow, hph]
    refine (dispatchAs_sat _ _).reaches ?_ ?_
    · rintro t ⟨rfl, -⟩
      exact keeps_of_readOnly rfl
    · rintro e t ⟨rfl, -⟩
      exact keeps_takeError e rfl
  · exact leads_select (decode_fmt_unsupported (effectiveFmt_lt s) hs)
      (reaches_raise { s with fmt := s.effectiveFmt } _)

theorem classify_readOnly (v : Half) (s : State) : OnlyReads s (classify v s) := by
  refine (classify_sat v s).mono ?_ (fun _ _ h => h.elim) fun _ h => h
  rintro - t ⟨ht, -⟩
  exact (congrArg State.readOnly ht).trans rfl

theorem fetchHeader_readOnly {s : State} (hph : s.phase = .classify) (hpay : s.payloadFits) :
    Leads (KeepsReadOnly s) (fetchHeader s) := by
  unfold fetchHeader
  split
  · exact leads_err (keeps_takeError _ rfl)
  rename_i h2
  refine readHeader_leads (payloadFits_header hpay (by omega)) fun v => ?_
  simp only [headerRow, hph]
  exact (classify_readOnly v s).reaches

/-! ## STRIP -/

/-- One turn of the record loop reads the payload and the key, and writes `RB` and the cursors only (41_framing.md R144,
R145). -/
theorem stripTurn_inputs {s : State} (hcfg : s.cfg.wf) (hpay : s.payloadFits) (hs : s.stripFits) :
    (stripTurn s).Sat (fun _ t => t.inputs = s.inputs) (fun _ t => t.inputs = s.inputs) fun _ => False := by
  unfold stripTurn
  split
  · exact rfl
  split
  · exact rfl
  have hroom := stripFits_room hcfg hpay hs (by omega)
  obtain ⟨-, hwin, hcap⟩ := hpay
  rw [memRead_inside (by simp only [capOf_inB]; omega), Res.andThen_ok]
  dsimp only
  split
  · exact rfl
  have hrec := stripRecord_sat (s := { s with inPos := s.inPos + 4 }) (z := s.le .inB (5 + s.inPos) 4)
    (by dsimp only; omega) (by dsimp only; omega)
  refine (hrec.mono (fun _ _ h => h) ?_ fun _ h => h).andThen fun _ t ht => ht.inputs
  rintro e t ⟨-, -, k, -, ht⟩
  exact ht.inputs

theorem fetchStrip_readOnly {s : State} (hph : s.phase = .strip) (hcfg : s.cfg.wf) (hpay : s.payloadFits)
    (h2 : 2 ≤ s.p) (hs : s.stripFits) : Leads (KeepsReadOnly s) (fetchStrip s) := by
  refine readHeader_leads (payloadFits_header hpay h2) fun v => ?_
  simp only [headerRow, hph]
  exact (stripTurn_inputs hcfg hpay hs).reaches (fun _ ht => keeps_of_strip hph ht) fun e _ ht => keeps_takeError e ht

/-! ## INFLATE -/

theorem inflateEntry_readOnly (s : State) : (inflateEntry s).readOnly = s.readOnly := by
  unfold inflateEntry
  dsimp only
  split
  · rfl
  · rfl

section
variable {s : State}

theorem storedBlock_readOnly (hs : Inflating s) : OnlyReads s (storedBlock s) := by
  refine (storedBlock_sat hs.stream hs.wanted hs.room).mono ?_ (fun e t ⟨_, ht, _⟩ => ht.readOnly) fun _ h => h
  rintro - t ⟨u, hu, ⟨rfl, -⟩ | ⟨rfl, -⟩⟩
  · exact hu.readOnly
  · exact hu.readOnly

theorem dynamicBlock_readOnly (hs : Inflating s) : OnlyReads s (dynamicBlock s) := by
  refine (dynamicBlock_sat hs.stream).mono ?_ ?_ fun _ h => h
  · rintro - t ⟨ht, -⟩
    exact (congrArg State.readOnly ht).trans rfl
  · rintro e t ⟨-, ht, -⟩
    exact (congrArg State.readOnly ht).trans rfl

theorem selectBlkhdr_readOnly (hs : Inflating s) {v : Nat} (hv : v < 4) :
    Leads (KeepsReadOnly s) (select .blkhdr v s) := by
  match v, hv with
  | 0, _ => exact leads_select (i := .stored) rfl (storedBlock_readOnly hs).reaches
  | 1, _ => exact leads_select (i := .fixed) rfl (reaches_next (keeps_of_readOnly rfl))
  | 2, _ => exact leads_select (i := .dynamic) rfl (dynamicBlock_readOnly hs).reaches
  | 3, _ => exact leads_select (i := .btypeReserved) rfl (reaches_raise s _)

theorem buildTables_readOnly (s : State) : OnlyReads s (buildTables s) := by
  refine (buildTables_sat s).mono ?_ ?_ fun _ h => h
  · rintro - t ⟨ht, -⟩
    exact (congrArg State.readOnly ht).trans rfl
  · rintro e t ⟨-, rfl | rfl⟩
    · rfl
    · rfl

theorem appendLens_readOnly (v r : Nat) (s : State) : OnlyReads s (appendLens v r s) := by
  rcases Nat.lt_or_ge (s.lens.length + r) (s.nlen + s.ndist) with hmore | hlast
  · rw [appendLens_more hmore]
    exact rfl
  · rw [appendLens_last hlast]
    exact buildTables_readOnly { s with lens := s.lens ++ List.replicate r v }

theorem repeatSymbol_readOnly (hs : Inflating s) (v base extra : Nat) :
    OnlyReads s ((getbits extra s).andThen fun e t => repeatLens v (base + e) t) := by
  refine ((getbits_sat extra hs.stream).mono (fun _ _ h => h) (fun _ _ h => h.2.readOnly) fun _ h => h).andThen ?_
  rintro e t ⟨-, rfl, -⟩
  rcases repeatLens_cases v (base + e) { s with bitPos := s.bitPos + extra } with ⟨-, he⟩ | ⟨-, he⟩ <;> rw [he]
  · exact rfl
  · exact appendLens_readOnly v (base + e) { s with bitPos := s.bitPos + extra }

theorem selectClsym_readOnly (hs : Inflating s) {v : Nat} (hv : v < 19) :
    Leads (KeepsReadOnly s) (select .clsym v s) := by
  by_cases hlit : v < 16
  · exact leads_select (i := .cl0to15 v) (by simp [decode, decodeClsym, hlit]) (appendLens_readOnly v 1 s).reaches
  obtain rfl | rfl | rfl : v = 16 ∨ v = 17 ∨ v = 18 := by omega
  · refine leads_select (i := .cl16) rfl ?_
    simp only [exec, execCl16]
    split
    · exact reaches_raise s _
    · exact (repeatSymbol_readOnly hs _ 3 2).reaches
  · exact leads_select (i := .cl17) rfl (repeatSymbol_readOnly hs 0 3 3).reaches
  · exact leads_select (i := .cl18) rfl (repeatSymbol_readOnly hs 0 11 7).reaches

theorem execLit_readOnly (hs : Inflating s) (b : Byte) : Reaches (KeepsReadOnly s) (execLit b s) := by
  refine Res.Sat.reaches ((emit_sat hs.wanted hs.room).andThen (Q' := fun _ t => t.readOnly = s.readOnly) ?_)
    (fun _ ht => keeps_of_readOnly ht) fun _ _ hf => hf.elim
  exact fun _ _ ⟨ht, _⟩ => ht.readOnly

theorem execEob_readOnly (s : State) : Reaches (KeepsReadOnly s) (execEob s) := by
  unfold execEob
  rcases endBlock_cases s with ⟨-, he⟩ | ⟨-, he⟩ <;> rw [he]
  · exact reaches_raise s _
  · exact reaches_next (keeps_of_readOnly rfl)

theorem matchLength_readOnly (hs : Inflating s) (base extra : Nat) : OnlyReads s (matchLength base extra s) := by
  refine (matchLength_sat base extra hs.stream).mono ?_ (fun _ _ h => h.2.readOnly) fun _ h => h
  rintro - t ⟨ht, -⟩
  exact (congrArg State.readOnly ht).trans rfl

theorem selectLitlen_readOnly (hs : Inflating s) {v : Nat} (hv : v < 288) :
    Leads (KeepsReadOnly s) (select .litlen v s) := by
  by_cases hlit : v < 256
  · exact leads_select (i := .lit (BitVec.ofNat 8 v)) (by simp [decode, decodeLitlen, hlit]) (execLit_readOnly hs _)
  obtain rfl | ⟨h1, h2⟩ | rfl | rfl : v = 256 ∨ (257 ≤ v ∧ v < 286) ∨ v = 286 ∨ v = 287 := by omega
  · exact leads_select (i := .eob) rfl (execEob_readOnly s)
  · obtain ⟨i, extra, base, hrow⟩ := lengthRows_cover h1 h2
    exact leads_select (decode_lengthRow hrow)
      (exec_lengthRow hrow s ▸ (matchLength_readOnly hs base extra).reaches)
  · exact leads_select (i := .litlenInvalid 286) rfl (reaches_raise s _)
  · exact leads_select (i := .litlenInvalid 287) rfl (reaches_raise s _)

theorem matchDistance_readOnly (hs : Inflating s) {base : Nat} (hb : 1 ≤ base) (extra : Nat) :
    OnlyReads s (matchDistance base extra s) := by
  refine (matchDistance_sat base extra hb hs.stream hs.wanted hs.room).mono ?_ (fun _ _ h => h.2.readOnly) fun _ h => h
  rintro - t ⟨u, hu, ⟨rfl, -⟩ | ⟨rfl, -⟩⟩
  · exact hu.readOnly
  · exact hu.readOnly

theorem selectDist_readOnly (hs : Inflating s) {v : Nat} (hv : v < 32) :
    Leads (KeepsReadOnly s) (select .dist v s) := by
  obtain hlt | rfl | rfl : v < 30 ∨ v = 30 ∨ v = 31 := by omega
  · obtain ⟨i, extra, base, hrow⟩ := distanceRows_cover hlt
    exact leads_select (decode_distanceRow hrow)
      (exec_distanceRow hrow s ▸ (matchDistance_readOnly hs (distanceRow_base_pos hrow) extra).reaches)
  · exact leads_select (i := .distInvalid 30) rfl (reaches_raise s _)
  · exact leads_select (i := .distInvalid 31) rfl (reaches_raise s _)

/-- Reading a symbol moves `BITPOS` only, and the row it selects keeps what the state before it holds (42_deflate.md
R171). -/
theorem readSymbol_readOnly (hs : Inflating s) {lens : List Nat} {size : Nat} {f : Format} (hlen : lens.length = size)
    (hrow : ∀ t, Inflating t → ∀ v < size, Leads (KeepsReadOnly t) (select f v t)) :
    Leads (KeepsReadOnly s) ((readSymbol lens s).andThen fun v t => select f v t) := by
  refine (readSymbol_sat lens hs.stream).leads ?_ fun e t h => keeps_takeError e (inputs_of_readOnly h.2.readOnly)
  rintro v t ⟨hv, hadv, -⟩
  have hlead := hrow t (hadv.inflating hs) v (hlen ▸ hv)
  obtain ⟨k, -, rfl⟩ := hadv
  exact hlead

theorem readBlockHeader_readOnly (hs : Inflating s) :
    Leads (KeepsReadOnly s) ((readBlockHeader s).andThen fun v t => select .blkhdr v t) := by
  refine (readBlockHeader_sat hs.stream).leads ?_ ?_
  · rintro v t ⟨hv, f, -, rfl⟩
    exact selectBlkhdr_readOnly (s := { s with bitPos := s.bitPos + 3, bfinal := f, btype := v })
      ⟨hs.phase, hs.stream, hs.wanted, hs.room⟩ hv
  · rintro e t ⟨-, ht, -⟩
    exact keeps_takeError e ((congrArg State.inputs ht).trans rfl)

theorem fetchInflate_readOnly (hph : s.phase = .inflate) (htab : s.TablesFit) (hform : s.formatFits)
    (hi : s.inflateFits) : Leads (KeepsReadOnly s) (fetchInflate s) := by
  obtain ⟨-, -, -, -, hroom, -⟩ := hform
  have inflating : s.streamFits → Inflating s := fun ⟨hz, _, hwant⟩ => ⟨hph, hz, hwant, hroom⟩
  unfold State.inflateFits at hi
  unfold fetchInflate
  cases hsub : s.sub <;> simp only [hsub] at hi ⊢
  case entry => exact leads_none (keeps_of_readOnly (inflateEntry_readOnly s))
  case header => exact readBlockHeader_readOnly (inflating hi)
  case codeLens => exact readSymbol_readOnly (inflating hi.1) htab.clLen.1 fun _ ht _ => selectClsym_readOnly ht
  case litlen => exact readSymbol_readOnly (inflating hi) htab.llLen.1 fun _ ht _ => selectLitlen_readOnly ht
  case dist => exact readSymbol_readOnly (inflating hi.1) htab.dLen.1 fun _ ht _ => selectDist_readOnly ht

end

/-! ## REPACK and the engine's turn -/

/-- REPACK paints `OUT`, and the end of the decode loses `RB` (40_host_interface.md R128). -/
theorem fetchRepack_readOnly {s : State} (hph : s.phase = .repack) (hform : s.formatFits) :
    Leads (KeepsReadOnly s) (fetchRepack s) := by
  obtain ⟨-, hcode, -⟩ := id hform
  obtain ⟨i, hd, hx⟩ := decode_fmt_supported hcode
  refine leads_select hd ?_
  rw [hx]
  simp only [formatRow, hph]
  refine Res.Sat.reaches ((repackOf_paints hform).andThen (Q' := fun _ t => KeepsReadOnly s t) ?_) (fun _ ht => ht)
    fun _ _ hf => hf.elim
  exact fun _ _ hp => keeps_of_ended hp.inputs rfl

/-- In a running decode the next action keeps what its phase only reads. -/
theorem nextAction_readOnly {s : State} (hinv : s.Inv) (hrun : s.phase.running = true) :
    Leads (KeepsReadOnly s) (nextAction s) := by
  have hfits := hinv.phase
  unfold State.phaseFits at hfits
  unfold nextAction
  cases hph : s.phase <;> simp only [hph, Phase.running, Bool.false_eq_true] at hfits hrun ⊢
  case fetch => exact fetchPhase_readOnly s
  case dispatch => exact fetchFormat_readOnly hph
  case classify =>
    obtain ⟨hpay, -⟩ := hfits
    exact fetchHeader_readOnly hph hpay
  case strip =>
    obtain ⟨hpay, -, h2, hstrip⟩ := hfits
    exact fetchStrip_readOnly hph hinv.cfg hpay h2 hstrip
  case inflate =>
    obtain ⟨-, hform, hinf⟩ := hfits
    exact fetchInflate_readOnly hph hinv.tables hform hinf
  case repack =>
    obtain ⟨-, hform, -⟩ := hfits
    exact fetchRepack_readOnly hph hform

theorem step_keeps_readOnly {s t : State} (hinv : s.Inv) (hturn : s.engineTurn = true) (ht : step s = .next t) :
    KeepsReadOnly s t := by
  have hlead := nextAction_readOnly hinv (running_of_engineTurn hturn)
  obtain ⟨u, hu, hkeep⟩ := Leads.step (fetch_engineTurn hturn ▸ hlead)
  rw [hu] at ht
  cases ht
  exact hkeep

end Sys2Proof.Machine

namespace Sys2Proof.Proofs
open Sys2Proof.Machine

/-- Settles O55: phase by phase, the actions and rows of a decode write cursors, tables, `RAW` and `OUT`, and `RB` in
STRIP only, until the end of the decode loses it. -/
theorem engineKeepsInputs : Obligations.EngineKeepsInputs := by
  intro s t hinv hturn ht
  obtain ⟨hinputs, hrb⟩ := step_keeps_readOnly hinv hturn ht
  refine ⟨inputsKept_iff.2 hinputs, fun a => ⟨byteAt_inB_of_inputs hinputs a, byteAt_key_of_inputs hinputs a⟩, ?_⟩
  exact fun hph hrun a => byteAt_rb_of_readOnly (hrb hph hrun) a

end Sys2Proof.Proofs
end

section
/-! SUPPORT. The decoder and the encoder against each other (30_encoding.md R91, R113), the codewords of the fixed codes
(R100) and the commands of a `CTRL` write (40_host_interface.md R123); then the statements on encodings. -/

namespace Sys2Proof.Machine

/-! ## Rows that carry a value (30_encoding.md R113) -/

/-- A header value outside the default set selects OBF (30_encoding.md R95). -/
theorem decode_obf {h : Half} (hn : h ∉ Config.zlibHdrSet) : decode .hdr16 h.toNat = .ok (.obf h) := by
  have hne : ∀ k ∈ Config.zlibHdrSet, h.toNat ≠ k.toNat := fun k hk he => hn (BitVec.eq_of_toNat_eq he ▸ hk)
  simp only [decode, decodeHdr, h.isLt, if_true]
  split
  · exact absurd ‹_› (hne 0x0178 (by decide))
  · exact absurd ‹_› (hne 0x5E78 (by decide))
  · exact absurd ‹_› (hne 0x9C78 (by decide))
  · exact absurd ‹_› (hne 0xDA78 (by decide))
  · rw [BitVec.ofNat_toNat, BitVec.setWidth_eq]

/-- Symbols 0 to 255 are the literal bytes (30_encoding.md R101). -/
theorem decode_lit (b : Byte) : decode .litlen b.toNat = .ok (.lit b) := by
  simp [decode, decodeLitlen, b.isLt]

/-- Code-length symbols 0 to 15 are the lengths themselves (30_encoding.md R104). -/
theorem decode_cl0to15 {v : Nat} (hv : v < 16) : decode .clsym v = .ok (.cl0to15 v) := by
  simp [decode, decodeClsym, hv]

/-- The decoder undoes the encoder: a fixed row by its own value, a row that carries a value by the lemma of its range. -/
theorem decode_encode {i : Instr} (h : WellFormed i = true) : decode (encode i).1 (encode i).2 = .ok i := by
  cases i with
  | unsupported v =>
    obtain ⟨hv, hn⟩ : v < 2 ^ 33 ∧ v ∉ formatCodes := by simpa [WellFormed] using h
    exact decode_fmt_unsupported hv hn
  | obf v => exact decode_obf (by simpa [WellFormed] using h)
  | lit b => exact decode_lit b
  | litlenInvalid v =>
    obtain rfl | rfl : v = 286 ∨ v = 287 := by simpa [WellFormed] using h
    · rfl
    · rfl
  | distInvalid v =>
    obtain rfl | rfl : v = 30 ∨ v = 31 := by simpa [WellFormed] using h
    · rfl
    · rfl
  | cl0to15 v => exact decode_cl0to15 (of_decide_eq_true h)
  | _ => rfl

/-! ## Values and their rows (30_encoding.md R91, R113) -/

/-- The value `v` is the encoding of `i` in format `f`; of a `CTRL` write its bits 1:0 are (30_encoding.md R91). -/
def RowOf (f : Format) (v : Nat) (i : Instr) : Prop :=
  WellFormed i = true ∧ encode i = (f, if f = .cmd then v % 4 else v)

/-- Bits 31:2 of a `CTRL` write are ignored (30_encoding.md R91). -/
theorem decode_cmd_low {v : Nat} (hv : v < 2 ^ 32) : decode .cmd v = decode .cmd (v % 4) := by
  simp only [decode, decodeCmd, hv, show v % 4 < 2 ^ 32 by omega, if_true, Nat.mod_mod]

/-- The row of a value is the one that the value selects. -/
theorem RowOf.decode_eq {f : Format} {v : Nat} {i : Instr} (h : RowOf f v i) (hv : v < valueSpace f) :
    decode f v = .ok i := by
  obtain ⟨hw, he⟩ := h
  have hd := decode_encode hw
  rw [he] at hd
  cases f with
  | cmd => exact (decode_cmd_low hv).trans hd
  | _ => exact hd

theorem lengthRow_rowOf {i : Instr} {v extra base : Nat} (h : (i, v, extra, base) ∈ lengthRows) : RowOf .litlen v i := by
  have hrow : ∀ r ∈ lengthRows, WellFormed r.1 = true ∧ encode r.1 = (.litlen, r.2.1) := by decide
  exact hrow _ h

theorem distanceRow_rowOf {i : Instr} {v extra base : Nat} (h : (i, v, extra, base) ∈ distanceRows) :
    RowOf .dist v i := by
  have hrow : ∀ r ∈ distanceRows, WellFormed r.1 = true ∧ encode r.1 = (.dist, r.2.1) := by decide
  exact hrow _ h

theorem exists_rowOf_cmd (v : Nat) : ∃ i, RowOf .cmd v i := by
  have hrow : ∀ k < 4, ∃ i ∈ [Instr.nop, .start, .clear, .clearStart], WellFormed i = true ∧ encode i = (.cmd, k) := by
    decide
  obtain ⟨i, -, hi⟩ := hrow (v % 4) (Nat.mod_lt v (by decide))
  exact ⟨i, hi⟩

theorem exists_rowOf_fmt {v : Nat} (hv : v < 2 ^ 33) : ∃ i, RowOf .fmt v i := by
  by_cases hc : v ∈ formatCodes
  · have hrow : ∀ k ∈ formatCodes, ∃ i ∈ formatSpecs.map FormatSpec.instr,
        WellFormed i = true ∧ encode i = (.fmt, k) := by decide
    obtain ⟨i, -, hi⟩ := hrow v hc
    exact ⟨i, hi⟩
  · exact ⟨.unsupported v, by simpa [WellFormed, hc] using hv, rfl⟩

theorem exists_rowOf_hdr16 {v : Nat} (hv : v < 2 ^ 16) : ∃ i, RowOf .hdr16 v i := by
  obtain ⟨h, rfl⟩ : ∃ h : Half, h.toNat = v := ⟨BitVec.ofNat 16 v, by simpa using hv⟩
  by_cases hc : h ∈ Config.zlibHdrSet
  · obtain rfl | rfl | rfl | rfl : h = 0x0178 ∨ h = 0x5E78 ∨ h = 0x9C78 ∨ h = 0xDA78 := by
      simpa [Config.zlibHdrSet] using hc
    · exact ⟨.plain0178, rfl, rfl⟩
    · exact ⟨.plain5E78, rfl, rfl⟩
    · exact ⟨.plain9C78, rfl, rfl⟩
    · exact ⟨.plainDA78, rfl, rfl⟩
  · exact ⟨.obf h, by simp [WellFormed, hc], rfl⟩

theorem exists_rowOf_blkhdr {v : Nat} (hv : v < 4) : ∃ i, RowOf .blkhdr v i := by
  have hrow : ∀ k < 4, ∃ i ∈ [Instr.stored, .fixed, .dynamic, .btypeReserved],
      WellFormed i = true ∧ encode i = (.blkhdr, k) := by decide
  obtain ⟨i, -, hi⟩ := hrow v hv
  exact ⟨i, hi⟩

theorem exists_rowOf_litlen {v : Nat} (hv : v < 288) : ∃ i, RowOf .litlen v i := by
  obtain h | rfl | ⟨h1, h2⟩ | h : v < 256 ∨ v = 256 ∨ (257 ≤ v ∧ v < 286) ∨ (v = 286 ∨ v = 287) := by omega
  · obtain ⟨b, rfl⟩ : ∃ b : Byte, b.toNat = v := ⟨BitVec.ofNat 8 v, by simpa using h⟩
    exact ⟨.lit b, rfl, rfl⟩
  · exact ⟨.eob, rfl, rfl⟩
  · obtain ⟨i, extra, base, hrow⟩ := lengthRows_cover h1 h2
    exact ⟨i, lengthRow_rowOf hrow⟩
  · exact ⟨.litlenInvalid v, by simpa [WellFormed] using h, rfl⟩

theorem exists_rowOf_dist {v : Nat} (hv : v < 32) : ∃ i, RowOf .dist v i := by
  obtain h | h : v < 30 ∨ (v = 30 ∨ v = 31) := by omega
  · obtain ⟨i, extra, base, hrow⟩ := distanceRows_cover h
    exact ⟨i, distanceRow_rowOf hrow⟩
  · exact ⟨.distInvalid v, by simpa [WellFormed] using h, rfl⟩

theorem exists_rowOf_clsym {v : Nat} (hv : v < 19) : ∃ i, RowOf .clsym v i := by
  obtain h | rfl | rfl | rfl : v < 16 ∨ v = 16 ∨ v = 17 ∨ v = 18 := by omega
  · exact ⟨.cl0to15 v, by simpa [WellFormed] using h, rfl⟩
  · exact ⟨.cl16, rfl, rfl⟩
  · exact ⟨.cl17, rfl, rfl⟩
  · exact ⟨.cl18, rfl, rfl⟩

/-- Every value of a format's value space has a row (30_encoding.md R113). -/
theorem exists_rowOf {f : Format} {v : Nat} (hv : v < valueSpace f) : ∃ i, RowOf f v i := by
  cases f with
  | cmd => exact exists_rowOf_cmd v
  | fmt => exact exists_rowOf_fmt hv
  | hdr16 => exact exists_rowOf_hdr16 hv
  | blkhdr => exact exists_rowOf_blkhdr hv
  | litlen => exact exists_rowOf_litlen hv
  | dist => exact exists_rowOf_dist hv
  | clsym => exact exists_rowOf_clsym hv

/-- A value outside its format's value space selects no row (30_encoding.md R113). -/
theorem decode_outside {f : Format} {v : Nat} (hv : valueSpace f ≤ v) : ∃ e, decode f v = .error e := by
  cases f with
  | cmd => exact ⟨_, if_neg (Nat.not_lt.2 hv)⟩
  | fmt => exact ⟨_, if_neg (Nat.not_lt.2 hv)⟩
  | hdr16 => exact ⟨_, if_neg (Nat.not_lt.2 hv)⟩
  | blkhdr =>
    obtain ⟨k, rfl⟩ := Nat.exists_eq_add_of_le' hv
    exact ⟨_, rfl⟩
  | litlen =>
    obtain ⟨k, rfl⟩ := Nat.exists_eq_add_of_le' hv
    exact ⟨.notALitLenSymbol (k + 288), by simp [decode, decodeLitlen, valueSpace]⟩
  | dist =>
    obtain ⟨k, rfl⟩ := Nat.exists_eq_add_of_le' hv
    exact ⟨_, rfl⟩
  | clsym =>
    obtain ⟨k, rfl⟩ := Nat.exists_eq_add_of_le' hv
    exact ⟨_, rfl⟩

theorem decode_ok_lt {f : Format} {v : Nat} {i : Instr} (h : decode f v = .ok i) : v < valueSpace f := by
  by_contra hv
  obtain ⟨e, he⟩ := decode_outside (Nat.not_lt.1 hv)
  cases h.symm.trans he

/-- The row that a value selects is the row of the value. -/
theorem rowOf_of_decode {f : Format} {v : Nat} {i : Instr} (h : decode f v = .ok i) : RowOf f v i := by
  have hv := decode_ok_lt h
  obtain ⟨j, hj⟩ := exists_rowOf hv
  cases h.symm.trans (hj.decode_eq hv)
  exact hj

/-! ## The fixed codes (30_encoding.md R100) -/

/-- The smallest codewords of the three lengths of a FIXED block's literal/length code. -/
theorem firstCode_fixedLitlen :
    firstCode fixedLitlenLens 7 = 0 ∧ firstCode fixedLitlenLens 8 = 0b00110000 ∧
      firstCode fixedLitlenLens 9 = 0b110010000 := by
  have hcount : ∀ l, lenCount fixedLitlenLens l =
      if l = 0 then 0 else (if 8 = l then 144 else 0) + ((if 9 = l then 112 else 0) +
        ((if 7 = l then 24 else 0) + if 8 = l then 8 else 0)) := by
    intro l
    simp [-List.reduceReplicate, lenCount, fixedLitlenLens, List.count_append, List.count_replicate]
  simp [firstCode, hcount]

/-- How many of the symbols below `s` have each length, run by run. -/
theorem count_take_fixedLitlen (s : Nat) :
    (fixedLitlenLens.take s).count 7 = min (s - 256) 24 ∧
      (fixedLitlenLens.take s).count 8 = min s 144 + min (s - 280) 8 ∧
      (fixedLitlenLens.take s).count 9 = min (s - 144) 112 := by
  simp [-List.reduceReplicate, fixedLitlenLens, List.take_append, List.take_replicate, List.count_append,
    List.count_replicate, Nat.sub_sub]

/-- The code lengths of a FIXED block's literal/length symbols (30_encoding.md R100). -/
theorem fixedLitlenLens_getD {s : Nat} (hs : s < 288) :
    fixedLitlenLens.getD s 0 = if s < 144 then 8 else if s < 256 then 9 else if s < 280 then 7 else 8 := by
  simp only [fixedLitlenLens, List.getD_eq_getElem?_getD, List.getElem?_append, List.getElem?_replicate,
    List.length_replicate]
  by_cases h1 : s < 144
  · simp [h1]
  by_cases h2 : s < 256
  · simp [h1, h2, show s - 144 < 112 by omega]
  by_cases h3 : s < 280
  · simp [h1, h2, h3, show ¬ s - 144 < 112 by omega, show s - 144 - 112 < 24 by omega]
  · simp [h1, h2, h3, show ¬ s - 144 < 112 by omega, show ¬ s - 144 - 112 < 24 by omega,
      show s - 144 - 112 - 24 < 8 by omega]

/-- The canonical codeword of a FIXED block's literal/length symbol: the first codeword of its length, and the symbols of
that length before it. -/
theorem codeword_fixedLitlen {s : Nat} (hs : s < 288) :
    codeword fixedLitlenLens s =
      if s < 144 then 0b00110000 + s else if s < 256 then 0b110010000 + (s - 144) else if s < 280 then s - 256
      else 0b11000000 + (s - 280) := by
  obtain ⟨h7, h8, h9⟩ := firstCode_fixedLitlen
  obtain ⟨c7, c8, c9⟩ := count_take_fixedLitlen s
  rw [codeword, fixedLitlenLens_getD hs]
  by_cases h1 : s < 144
  · simp only [h1, if_true, h8, c8]
    omega
  by_cases h2 : s < 256
  · simp only [h1, h2, if_true, if_false, h9, c9]
    omega
  by_cases h3 : s < 280
  · simp only [h1, h2, h3, if_true, if_false, h7, c7]
    omega
  · simp only [h1, h2, h3, if_false, h8, c8]
    omega

/-- In as many bits as its code length, it is the codeword written out (30_encoding.md R100). -/
theorem fixedLitlen_codeword {s : Nat} (hs : s < 288) :
    msbFirst (fixedLitlenLens.getD s 0) (codeword fixedLitlenLens s) = fixedLitlenCode s := by
  rw [fixedLitlenLens_getD hs, codeword_fixedLitlen hs, fixedLitlenCode]
  split_ifs <;> rfl

/-- A FIXED block's distance codewords are the symbols themselves in 5 bits (30_encoding.md R100). -/
theorem fixedDist_codeword {d : Nat} (hd : d < 32) :
    fixedDistLens.getD d 0 = 5 ∧ codeword fixedDistLens d = d := by
  have hlen : fixedDistLens.getD d 0 = 5 := by simp [-List.reduceReplicate, fixedDistLens, hd]
  have hfirst : firstCode fixedDistLens 5 = 0 := by
    simp [-List.reduceReplicate, firstCode, lenCount, fixedDistLens, List.count_replicate]
  refine ⟨hlen, ?_⟩
  rw [codeword, hlen, hfirst]
  simpa [-List.reduceReplicate, fixedDistLens, List.take_replicate] using hd.le

/-! ## `CTRL` writes (40_host_interface.md R123) -/

/-- A command at an engine that is not busy has its effect. -/
theorem command_free {effect : State → State} {s : State} (h : s.busy = false) :
    command effect s = .next (effect s) := by
  simp [command, h]

theorem exec_nop_free {s : State} (h : s.busy = false) : exec .nop s = .next s := command_free (effect := fun s => s) h

/-- A `CTRL` write runs the command that its bits 1:0 alone select (30_encoding.md R91). -/
theorem step_command_low {s : State} {v : Word} {rest : List HostMove} {k : Nat} {i : Instr}
    (ht : s.hostTurn (.writeReg 0 v) rest) (hk : v.toNat % 4 = k) (hd : decode .cmd k = .ok i) :
    step s = exec i { s with host := rest } :=
  step_command ht (by rw [decode_cmd_low v.isLt, hk, hd])

end Sys2Proof.Machine

namespace Sys2Proof.Proofs
open Sys2Proof.Machine

/-- Settles O1: by cases on the row; a row that carries a value by the lemma of its range. -/
theorem decodeOfEncode : Obligations.DecodeOfEncode := fun _ h => decode_encode h

/-- Settles O2: a value that decodes is in its value space, where it has a row, and the decoder has one answer. -/
theorem encodeOfDecode : Obligations.EncodeOfDecode := fun _ _ _ h => rowOf_of_decode h

/-- Settles O3: inside the value space there is a row, and the decoder undoes its encoding; outside it the decoder
rejects. -/
theorem decodeCoversValueSpaces : Obligations.DecodeCoversValueSpaces := by
  refine fun f v => ⟨fun ⟨_, h⟩ => decode_ok_lt h, fun hv => ?_⟩
  obtain ⟨i, hi⟩ := exists_rowOf hv
  exact ⟨i, hi.decode_eq hv⟩

/-- Settles O4: each clause by evaluating the decoder. -/
theorem writtenOutWordsDecode : Obligations.WrittenOutWordsDecode :=
  ⟨rfl, rfl, rfl, rfl, rfl, rfl, rfl, rfl, rfl, rfl, rfl, rfl, rfl, rfl, rfl⟩

/-- Settles O6: a canonical codeword counts the symbols of its length below it, run by run of the code lengths. -/
theorem fixedCodes : Obligations.FixedCodes := by
  refine ⟨fun s hs => ⟨fixedLitlenLens_getD hs, fixedLitlen_codeword hs⟩, fun d hd => ?_⟩
  obtain ⟨hlen, hcode⟩ := fixedDist_codeword hd
  exact ⟨hlen, by rw [hcode, fixedDistCode]⟩

/-- Settles O14: the write selects the command of its bits 1:0; CLEAR before START changes nothing that START keeps. -/
theorem ctrlWrite : Obligations.CtrlWrite := by
  have hclearStart : ∀ s, exec .clearStart s = exec .start s := fun _ => rfl
  refine ⟨fun s v rest ht hbusy => ⟨?nop, ?start, ?clear, ?clearStart⟩, fun s hbusy => ⟨exec_nop_free hbusy, ?_, ?_⟩⟩
  case nop => exact fun hk => (step_command_low ht hk rfl).trans (exec_nop_free (s := { s with host := rest }) hbusy)
  case start => exact fun hk => step_command_low ht hk rfl
  case clear => exact fun hk => step_command_low ht hk rfl
  case clearStart => exact fun hk => (step_command_low ht hk rfl).trans (hclearStart _)
  · exact hclearStart s
  · exact ⟨_, exec_start_free hbusy, rfl⟩

end Sys2Proof.Proofs
end

section
/-! SUPPORT. The exact results of the symbols with extra bits (30_encoding.md R102 to R104): the bits they read, the error
they raise, the code lengths they append, the bytes a match copies; then the statements on symbols. -/

namespace Sys2Proof.Machine

/-! ## What every symbol uses -/

/-- A decode error raised after work that changed no input and no flag, seen from the state before that work
(60_exceptions.md R290). -/
theorem errorTaken_takeError {s t : State} (e : ErrCode) (hin : t.inputs = s.inputs) (hst : t.status = s.status) :
    ErrorTaken e s (takeError e t) := by
  have hkept : (takeError e t).inputs = s.inputs := hin
  refine ⟨rfl, ?_, rfl, rfl, rfl, inputsKept_iff.2 hkept, fun a => ⟨byteAt_inB_of_inputs hkept a,
    byteAt_key_of_inputs hkept a⟩⟩
  simp [State.obfPart, takeError, hst]

/-- The stream holds the next `n` bits, where any are wanted. -/
def State.holdsBits (s : State) (n : Nat) : Prop := 0 < n → s.zInside ∧ s.bitPos + n ≤ 8 * s.zLen

/-- `getbits` where the stream holds the bits; where none are wanted it reads nothing (42_deflate.md R163). -/
theorem getbits_held {s : State} {n : Nat} (h : s.holdsBits n) :
    getbits n s = .ok (s.zField s.bitPos n) { s with bitPos := s.bitPos + n } := by
  rcases Nat.eq_zero_or_pos n with rfl | hn
  · rfl
  · exact getbits_inside (h hn).1 (h hn).2

/-! ## Length symbols (42_deflate.md R179) -/

theorem matchLength_held {s : State} {base extra : Nat} (h : s.holdsBits extra) :
    matchLength base extra s = .ok () { s with
      bitPos := s.bitPos + extra, matchLen := base + s.zField s.bitPos extra, sub := .dist } := by
  rw [matchLength, getbits_held h, Res.andThen_ok]

/-! ## Code-length symbols (42_deflate.md R175) -/

/-- A code-length symbol, with its extra bits in the stream, is a repeat of what it appends: CL0_15 too, while a length is
still to come. -/
theorem exec_clAppends {i : Instr} {v r k : Nat} {s : State} (ha : s.clAppends i = some (v, r, k))
    (hroom : s.lens.length < s.nlen + s.ndist) (hbits : s.holdsBits k) :
    exec i s = (repeatLens v r { s with bitPos := s.bitPos + k }).toOutcome := by
  unfold State.clAppends at ha
  split at ha <;> simp only [Option.map_eq_some_iff, Option.some.injEq, Prod.mk.injEq, reduceCtorEq] at ha
  case h_1 =>
    obtain ⟨rfl, rfl, rfl⟩ := ha
    have hone : ¬ s.nlen + s.ndist < s.lens.length + 1 := by omega
    exact congrArg Res.toOutcome (if_neg hone).symm
  case h_2 =>
    obtain ⟨w, hlast, rfl, rfl, rfl⟩ := ha
    simp only [exec, execCl16, hlast, getbits_held hbits, Res.andThen_ok]
  case h_3 =>
    obtain ⟨rfl, rfl, rfl⟩ := ha
    simp only [exec, execCl17, getbits_held hbits, Res.andThen_ok]
  case h_4 =>
    obtain ⟨rfl, rfl, rfl⟩ := ha
    simp only [exec, execCl18, getbits_held hbits, Res.andThen_ok]

/-- A repeat past the end of the sequence of code lengths raises. -/
theorem repeatLens_past {v r : Nat} {s : State} (h : s.nlen + s.ndist < s.lens.length + r) :
    repeatLens v r s = .err .stream s := if_pos h

/-- A repeat that leaves the sequence of code lengths incomplete only appends. -/
theorem repeatLens_more {v r : Nat} {s : State} (h : s.lens.length + r < s.nlen + s.ndist) :
    repeatLens v r s = .ok () { s with lens := s.lens ++ List.replicate r v } :=
  (if_neg (by omega)).trans (appendLens_more h)

/-- CL16 with no length before it raises. -/
theorem exec_cl16_nil {s : State} (h : s.lens = []) : exec .cl16 s = .next (takeError .stream s) := by
  simp [exec, execCl16, h]

/-! ## Distance symbols and the copy of a match (42_deflate.md R180, R181; 20_memory.md R75) -/

/-- The match distances of 30_encoding.md R103 are 1 to 32768. -/
theorem distanceRow_range {i : Instr} {v extra base : Nat} (h : (i, v, extra, base) ∈ distanceRows) :
    1 ≤ base ∧ base + 2 ^ extra ≤ 32769 := by
  have hrange : ∀ r ∈ distanceRows, 1 ≤ r.2.2.2 ∧ r.2.2.2 + 2 ^ r.2.2.1 ≤ 32769 := by decide
  exact hrange _ h

/-- The state after `emit`, the stop rule applied (42_deflate.md R164). -/
def State.emitted (s : State) (b : Byte) : State :=
  { s with
    raw := s.raw.put s.rawPos b, rawPos := s.rawPos + 1
    phase := if s.rawPos + 1 = s.n then .repack else s.phase }

theorem emit_emitted {b : Byte} {s : State} (h : s.rawPos < s.cfg.rawCap) :
    emit b s = .ok (decide (s.rawPos + 1 = s.n)) (s.emitted b) := by
  rw [emit_inside h]
  by_cases hstop : s.rawPos + 1 = s.n <;> simp [State.emitted, hstop]

@[simp] theorem emitted_rawPos (s : State) (b : Byte) : (s.emitted b).rawPos = s.rawPos + 1 := rfl
@[simp] theorem emitted_n (s : State) (b : Byte) : (s.emitted b).n = s.n := rfl

theorem emitted_byteAt_same (s : State) (b : Byte) : (s.emitted b).byteAt .raw s.rawPos = b :=
  byteAt_setMem_put_same s .raw s.rawPos b

theorem emitted_byteAt_other {s : State} {b : Byte} {c : Buf} {a : Nat} (h : c ≠ .raw ∨ a ≠ s.rawPos) :
    (s.emitted b).byteAt c a = s.byteAt c a :=
  byteAt_setMem_put_other s .raw c s.rawPos a b h

/-- What a copy of `m` bytes from `dist` bytes back leaves: the last `dist` bytes repeated, nothing else written, the
cursor moved and the stop rule applied. -/
structure Copied (dist m : Nat) (s t : State) : Prop where
  bytes : ∀ j < m, t.byteAt .raw (s.rawPos + j) = s.byteAt .raw (s.rawPos - dist + j % dist)
  writes : WritesOnly .raw s.rawPos (s.rawPos + m) s t
  same : t = { s with
    raw := t.raw, rawPos := s.rawPos + m, phase := if s.rawPos + m = s.n then .repack else s.phase }

/-- A copy of no bytes, where the stop rule, if it applies, has been applied. -/
theorem Copied.zero {dist : Nat} {s : State} (h : s.rawPos = s.n → s.phase = .repack) : Copied dist 0 s s := by
  refine ⟨fun j hj => absurd hj (Nat.not_lt_zero j), fun _ _ _ => rfl, ?_⟩
  have hph : (if s.rawPos + 0 = s.n then .repack else s.phase) = s.phase := by
    split
    · exact (h ‹_›).symm
    · rfl
  rw [hph]
  rfl

/-- The byte that a match repeats at place `j + 1` is the one at place `j` of the copy that starts one byte later: where
`j + 1` is a multiple of the distance, it is the byte just emitted. -/
theorem emitted_byteAt_repeats {dist j : Nat} {s : State} (h0 : 0 < dist) (hd : dist ≤ s.rawPos) :
    (s.emitted (s.byteAt .raw (s.rawPos - dist))).byteAt .raw (s.rawPos + 1 - dist + j % dist) =
      s.byteAt .raw (s.rawPos - dist + (j + 1) % dist) := by
  have hj : j % dist < dist := Nat.mod_lt j h0
  have hdiv := Nat.div_add_mod j dist
  by_cases hwrap : j % dist + 1 = dist
  · have hmod : (j + 1) % dist = 0 := by
      rw [show j + 1 = dist * (j / dist) + dist by omega, Nat.mul_add_mod, Nat.mod_self]
    rw [hmod, show s.rawPos + 1 - dist + j % dist = s.rawPos by omega]
    exact emitted_byteAt_same s _
  · have hmod : (j + 1) % dist = j % dist + 1 := by
      rw [show j + 1 = dist * (j / dist) + (j % dist + 1) by omega, Nat.mul_add_mod, Nat.mod_eq_of_lt (by omega)]
    rw [hmod, show s.rawPos + 1 - dist + j % dist = s.rawPos - dist + (j % dist + 1) by omega]
    exact emitted_byteAt_other (.inr (by omega))

/-- A copy is its first byte, and then the copy that starts one byte later (20_memory.md R75). -/
theorem Copied.cons {dist m : Nat} {s t : State} (h0 : 0 < dist) (hd : dist ≤ s.rawPos) (hm : s.rawPos + 1 + m ≤ s.n)
    (h : Copied dist m (s.emitted (s.byteAt .raw (s.rawPos - dist))) t) : Copied dist (m + 1) s t := by
  obtain ⟨hbytes, hwrites, hsame⟩ := h
  rw [emitted_rawPos] at hbytes hwrites
  have hend : s.rawPos + 1 + m = s.rawPos + (m + 1) := by omega
  refine ⟨fun j hj => ?_, fun c a ha => ?_, hsame.trans ?_⟩
  · cases j with
    | zero =>
      rw [hwrites .raw (s.rawPos + 0) (by omega), Nat.zero_mod]
      exact emitted_byteAt_same s _
    | succ j =>
      rw [← emitted_byteAt_repeats h0 hd, ← hbytes j (by omega)]
      exact congrArg _ (by omega)
  · rw [hwrites c a (ha.imp_right fun h => by omega)]
    exact emitted_byteAt_other (ha.imp_right fun h => by omega)
  · have hph : (if s.rawPos + 1 + m = s.n then Phase.repack else if s.rawPos + 1 = s.n then .repack else s.phase) =
        if s.rawPos + (m + 1) = s.n then .repack else s.phase := by
      rw [hend]
      split
      · rfl
      · exact if_neg (by omega)
    show ({ s with
      raw := t.raw, rawPos := s.rawPos + 1 + m
      phase := if s.rawPos + 1 + m = s.n then .repack else if s.rawPos + 1 = s.n then .repack else s.phase } : State) = _
    rw [hph, hend]

/-- The copy of a match: up to its length or the wanted count, whichever is less, and whether the stop rule fired. -/
theorem matchCopy_copied {dist left m : Nat} {s : State} (h0 : 0 < dist) (hd : dist ≤ s.rawPos) (hlt : s.rawPos < s.n)
    (hn : s.n ≤ s.cfg.rawCap) (hm : m = min left (s.n - s.rawPos)) :
    ∃ t, matchCopy dist left s = .ok (decide (s.rawPos + m = s.n)) t ∧ Copied dist m s t := by
  induction left generalizing s m with
  | zero =>
    obtain rfl : m = 0 := by omega
    exact ⟨s, by simp [matchCopy, show s.rawPos ≠ s.n by omega], Copied.zero fun h => absurd h (by omega)⟩
  | succ left ih =>
    have hload := load_inside (b := .raw) (a := s.rawPos - dist) (s := s) (by simp only [capOf_raw]; omega)
    rw [matchCopy, hload, Res.andThen_ok, emit_emitted (by omega), Res.andThen_ok]
    by_cases hstop : s.rawPos + 1 = s.n
    · obtain rfl : m = 0 + 1 := by omega
      refine ⟨_, by simp only [hstop, decide_true, if_true, Nat.zero_add], Copied.cons h0 hd (by omega) (Copied.zero ?_)⟩
      exact fun _ => if_pos hstop
    · obtain ⟨k, rfl⟩ : ∃ k, m = k + 1 := ⟨m - 1, by omega⟩
      obtain ⟨t, ht, hcopied⟩ := ih (s := s.emitted (s.byteAt .raw (s.rawPos - dist))) (m := k)
        (by rw [emitted_rawPos]; omega) (by rw [emitted_rawPos, emitted_n]; omega) hn
        (by rw [emitted_rawPos, emitted_n]; omega)
      refine ⟨t, ?_, Copied.cons h0 hd (by omega) hcopied⟩
      simp only [hstop, decide_false, Bool.false_eq_true, if_false, ht]
      rw [emitted_rawPos, emitted_n, Nat.add_assoc, Nat.add_comm 1 k]

/-- A distance beyond the bytes produced raises (42_deflate.md R180). -/
theorem matchDistance_beyond {s : State} {base extra : Nat} (h : s.holdsBits extra)
    (hfar : s.rawPos < base + s.zField s.bitPos extra) :
    matchDistance base extra s = .err .stream { s with bitPos := s.bitPos + extra } := by
  rw [matchDistance, getbits_held h, Res.andThen_ok]
  exact if_pos hfar

/-- A distance inside the bytes produced: the match is copied, and unless the stop rule fired a symbol comes next
(42_deflate.md R178, R181). -/
theorem matchDistance_copied {s : State} {base extra dist m : Nat} (h : s.holdsBits extra)
    (hdist : dist = base + s.zField s.bitPos extra) (h0 : 0 < dist) (hd : dist ≤ s.rawPos) (hlt : s.rawPos < s.n)
    (hn : s.n ≤ s.cfg.rawCap) (hm : m = min s.matchLen (s.n - s.rawPos)) :
    ∃ t, Copied dist m { s with bitPos := s.bitPos + extra } t ∧
      matchDistance base extra s =
        .ok () { t with sub := if s.rawPos + m = s.n then s.sub else .litlen } := by
  obtain ⟨t, ht, hcopied⟩ := matchCopy_copied (s := { s with bitPos := s.bitPos + extra }) h0 hd hlt hn hm
  refine ⟨t, hcopied, ?_⟩
  rw [matchDistance, getbits_held h, Res.andThen_ok, ← hdist, if_neg (Nat.not_lt.2 hd), ht, Res.andThen_ok]
  have hsub : t.sub = s.sub := (congrArg State.sub hcopied.same).trans rfl
  by_cases hstop : s.rawPos + m = s.n
  · simp [hstop, ← hsub]
  · simp [hstop]

end Sys2Proof.Machine

namespace Sys2Proof.Proofs
open Sys2Proof.Machine

/-- Settles O32: a row of the table is its symbol's instruction and reads its extra bits, whose value is below
`2 ^ extra`. -/
theorem lengthSymbols : Obligations.LengthSymbols := by
  constructor
  · rintro ⟨i, v, extra, base⟩ hrow
    refine ⟨decode_lengthRow hrow, fun s hbits => ?_⟩
    obtain ⟨hlo, hhi⟩ := lengthRow_range hrow
    have hfield := zField_lt s s.bitPos extra
    refine ⟨by dsimp only; omega, by dsimp only; omega, _, ?_, rfl, fun _ _ => rfl⟩
    rw [exec_lengthRow hrow, matchLength_held hbits]
    rfl
  · intro v hv
    have hw : WellFormed (.litlenInvalid v) = true := by simpa [WellFormed] using hv
    exact ⟨decode_encode hw, fun s => ⟨_, rfl, errorTaken_takeError .stream rfl rfl⟩⟩

/-- Settles O33: a row of the table is its symbol's instruction and reads its extra bits; the copy by induction on its
length, one byte emitted and the rest copied from one byte later on. -/
theorem distanceSymbols : Obligations.DistanceSymbols := by
  constructor
  · rintro ⟨i, v, extra, base⟩ hrow
    refine ⟨decode_distanceRow hrow, fun s dist m hbits hdist hm => ?_⟩
    obtain ⟨hlo, hhi⟩ := distanceRow_range hrow
    have hfield := zField_lt s s.bitPos extra
    dsimp only at hbits hdist ⊢
    refine ⟨by omega, by omega, fun hfar => ?_, fun hd hlt hn => ?_⟩
    · refine ⟨_, ?_, errorTaken_takeError .stream (t := { s with bitPos := s.bitPos + extra }) rfl rfl⟩
      rw [exec_distanceRow hrow, matchDistance_beyond hbits (hdist ▸ hfar)]
      rfl
    · obtain ⟨t, ⟨hbytes, hwrites, hsame⟩, ht⟩ := matchDistance_copied hbits hdist (by omega) hd hlt hn hm
      refine ⟨{ t with sub := if s.rawPos + m = s.n then s.sub else .litlen }, ?_, hbytes, hwrites, ?_⟩
      · rw [exec_distanceRow hrow, ht]
        rfl
      · rw [hsame]
  · intro v hv
    have hw : WellFormed (.distInvalid v) = true := by simpa [WellFormed] using hv
    exact ⟨decode_encode hw, fun s => ⟨_, rfl, errorTaken_takeError .stream rfl rfl⟩⟩

/-- Settles O38: every code-length symbol is a repeat of what it appends, and a repeat tests the end of the sequence
first. -/
theorem codeLengthSymbols : Obligations.CodeLengthSymbols := by
  refine ⟨fun i v r k s ha hroom hbits => ?_, fun s hnil => ⟨_, exec_cl16_nil hnil, errorTaken_takeError .stream rfl rfl⟩⟩
  rw [exec_clAppends ha hroom hbits]
  refine ⟨fun hpast => ?_, fun hmore => ?_⟩
  · rw [repeatLens_past (s := { s with bitPos := s.bitPos + k }) hpast]
    exact ⟨_, rfl, errorTaken_takeError .stream rfl rfl⟩
  · rw [repeatLens_more (s := { s with bitPos := s.bitPos + k }) hmore]
    exact ⟨_, rfl, rfl, fun _ _ => rfl⟩

end Sys2Proof.Proofs
end

section
/-! SUPPORT. The exact outcomes of the commands, of the host's moves at an engine that is not running and of FETCH
(40_host_interface.md R120 to R125); then the statements of 40_host_interface.md. -/

namespace Sys2Proof.Machine

section
variable {s t : State}

/-! ## START and CLEAR (40_host_interface.md R121, R122) -/

theorem inputBytes_of_inputs (h : t.inputs = s.inputs) (a : Nat) :
    t.byteAt .inB a = s.byteAt .inB a ∧ t.byteAt .key a = s.byteAt .key a :=
  ⟨byteAt_inB_of_inputs h a, byteAt_key_of_inputs h a⟩

/-- CLEAR where there is no result to forget (40_host_interface.md R122). -/
theorem exec_clear_idle (hbusy : s.busy = false) (hph : s.phase = .idle) : exec .clear s = .next (clearRegs s) :=
  (command_free (effect := clearResult) hbusy).trans (by rw [clearResult, if_pos hph])

theorem exec_clear_notIdle (hbusy : s.busy = false) (hph : s.phase ≠ .idle) :
    exec .clear s = .next (clearRegs s.forget) :=
  (command_free (effect := clearResult) hbusy).trans (by rw [clearResult, if_neg hph])

/-- In IDLE the registers that CLEAR writes are 0 already (10_state.md R22, R23, R27, R28). -/
theorem clearRegs_of_idle (h : s.Inv) (hph : s.phase = .idle) : clearRegs s = s := by
  have hstatus := h.status
  rw [hph] at hstatus
  have hzero : s.status = 0 := List.mem_singleton.1 hstatus
  have herr : s.err = 0 := err_zero h (by simp [hph])
  obtain ⟨hlen, hfmt⟩ : s.outLen = 0 ∧ s.outFmt = 0 := by simpa [hph] using h.result
  clear h hstatus
  cases s
  simp_all [clearRegs]

/-! ## The host's moves (40_host_interface.md R120) -/

/-- A store changes the byte it writes and no other. -/
theorem setMem_put_writesOnly (s : State) (b : Buf) (a : Nat) (v : Byte) :
    WritesOnly b a (a + 1) s (s.setMem b ((s.mem b).put a v)) :=
  fun c a' h => byteAt_setMem_put_other s b c a a' v (h.imp_right (by omega))

/-- The registers in the order of their numbers (10_state.md R20). -/
theorem readReg?_eq (s : State) (r : Nat) :
    s.readReg? r =
      [0, s.status, s.err, s.width, s.height, s.fmtPri, s.fmtSec, s.inLen, s.outLen, s.outFmt][r]? := by
  match r with
  | 0 | 1 | 2 | 3 | 4 | 5 | 6 | 7 | 8 | 9 => rfl
  | r + 10 => rfl

section
variable {a r : Nat} {rest : List HostMove}

theorem step_writeReg_next {v : Word} (ht : s.hostTurn (.writeReg r v) rest) (hr : r ≠ 0)
    (hw : State.writeReg? { s with host := rest } r v = some t) : step s = .next t :=
  step_ok_none (by rw [fetch_hostTurn ht, hostMove, if_neg hr, hw])

theorem step_readReg_next {v : Word} (ht : s.hostTurn (.readReg r) rest)
    (hr : State.readReg? { s with host := rest } r = some v) : step s = .next { s with host := rest, rdata := v } :=
  step_ok_none (by rw [fetch_hostTurn ht, hostMove, hr])

/-- A write of one byte inside its buffer completes. -/
theorem step_store_next {b : Buf} {v : Byte} (hf : fetch s = (store b a v t).andThen fun _ u => .ok none u)
    (ha : a < t.capOf b) : step s = .next (t.setMem b ((t.mem b).put a v)) :=
  step_ok_none (by rw [hf, store_inside ha, Res.andThen_ok])

theorem step_writeIn_next {v : Byte} (ht : s.hostTurn (.writeIn a v) rest) (ha : a < s.cfg.inCap) :
    step s = .next { s with host := rest, inBuf := s.inBuf.put a v } :=
  step_store_next (b := .inB) (t := { s with host := rest }) (fetch_hostTurn ht) ha

theorem step_writeKey_next {v : Byte} (ht : s.hostTurn (.writeKey a v) rest) (ha : a < s.cfg.keyLen) :
    step s = .next { s with host := rest, keyBuf := s.keyBuf.put a v } :=
  step_store_next (b := .key) (t := { s with host := rest }) (fetch_hostTurn ht) ha

theorem step_readOut_next (ht : s.hostTurn (.readOut a) rest) (ha : a < s.cfg.outCap) :
    step s = .next { s with host := rest, rdata := (s.byteAt .out a).setWidth 32 } := by
  have hload := load_inside (b := .out) (s := { s with host := rest }) ha
  exact step_ok_none (by rw [fetch_hostTurn ht, hostMove, hload]; rfl)

end

/-! ## FETCH (40_host_interface.md R124, R125) -/

theorem fetch_inFetch (hturn : s.engineTurn = true) (hph : s.phase = .fetch) : fetch s = fetchPhase s := by
  rw [fetch_engineTurn hturn, nextAction, hph]

/-- A window longer than `IN` (40_host_interface.md R124). -/
theorem fetchPhase_overCap (h : s.cfg.inCap < s.inLen.toNat) : fetchPhase s = .err .cap s := if_pos h

/-- With the length field inside the window only `L` is left to test (40_host_interface.md R125). -/
theorem fetchPhase_window (h5 : 5 ≤ s.inLen.toNat) (hcap : s.inLen.toNat ≤ s.cfg.inCap) :
    fetchPhase s =
      if s.lField - 1 ≤ 0 then .ok none (finishEmpty { s with p := (s.lField - 1).toNat })
      else if s.inLen.toNat < 5 + (s.lField - 1).toNat then .err .source { s with p := (s.lField - 1).toNat }
      else .ok none { s with p := (s.lField - 1).toNat, phase := .dispatch } := by
  rw [fetchPhase, if_neg (Nat.not_lt.2 hcap), if_neg (Nat.not_lt.2 h5), readL_inside (by omega), Res.andThen_ok]

theorem fetchPhase_empty (h5 : 5 ≤ s.inLen.toNat) (hcap : s.inLen.toNat ≤ s.cfg.inCap) (hl : s.lField ≤ 1) :
    fetchPhase s = .ok none (finishEmpty { s with p := (s.lField - 1).toNat }) := by
  rw [fetchPhase_window h5 hcap, if_pos (by omega)]

/-- A length field that leaves a payload of `p ≥ 1` bytes: the payload is inside the window or it is not. -/
theorem fetchPhase_payload (h5 : 5 ≤ s.inLen.toNat) (hcap : s.inLen.toNat ≤ s.cfg.inCap) {p : Nat}
    (hl : s.lField = p + 1) (hp : 1 ≤ p) :
    fetchPhase s =
      if s.inLen.toNat < 5 + p then .err .source { s with p := p }
      else .ok none { s with p := p, phase := .dispatch } := by
  have hpay : (s.lField - 1).toNat = p := by omega
  rw [fetchPhase_window h5 hcap, if_neg (by omega), hpay]

end

end Sys2Proof.Machine

namespace Sys2Proof.Proofs
open Sys2Proof.Machine

/-- Settles O21: the three ends of FETCH, by the value of `L` and by whether the payload is inside the window. -/
theorem fetchLength : Obligations.FetchLength := by
  intro s hturn hph h5 hcap
  have hfetch := fetch_inFetch hturn hph
  refine ⟨fun hempty => ?_, fun p hl hp hbeyond => ?_, fun p hl hp hinside => ?_⟩
  · have hok := hfetch.trans (fetchPhase_empty h5 hcap hempty)
    exact ⟨_, step_ok_none hok, rfl, rfl, rfl, rfl, rfl, inputsKept_iff.2 rfl⟩
  · have herr : fetchPhase s = .err .source { s with p := p } := by
      rw [fetchPhase_payload h5 hcap hl hp, if_pos hbeyond]
    exact ⟨_, step_err (hfetch.trans herr), errorTaken_takeError .source rfl rfl⟩
  · have hok : fetchPhase s = .ok none { s with p := p, phase := .dispatch } := by
      rw [fetchPhase_payload h5 hcap hl hp, if_neg (Nat.not_lt.2 hinside)]
    exact ⟨_, step_ok_none (hfetch.trans hok), rfl, fun _ _ => rfl⟩

/-- Settles O12: START forgets `RB`, `RAW` and `OUT` and writes the registers named; `IN` and `KEY` are inputs. -/
theorem start : Obligations.Start := fun _ hbusy =>
  ⟨_, exec_start_free hbusy, rfl, inputBytes_of_inputs rfl⟩

/-- Settles O13: CLEAR by whether there is a result to forget; in IDLE the invariant says that the registers it writes
are 0. -/
theorem clear : Obligations.Clear := by
  refine ⟨fun s hbusy => ?_, fun s hinv hph => ?_⟩
  · by_cases hph : s.phase = .idle
    · exact ⟨_, exec_clear_idle hbusy hph, rfl, inputBytes_of_inputs rfl⟩
    · exact ⟨_, exec_clear_notIdle hbusy hph, rfl, inputBytes_of_inputs rfl⟩
  · have hbusy : s.busy = false := busy_eq_false hinv (by rw [hph]; rfl)
    rw [exec_clear_idle hbusy hph, clearRegs_of_idle hinv hph]

/-- Settles O16: each move by the one register or byte that it writes; a byte of `OUT` is zero-extended into `rdata`. -/
theorem hostMoves : Obligations.HostMoves := by
  refine ⟨?writeReg, ?writeIn, ?writeKey, ?readReg, ?readOut⟩
  case writeReg =>
    intro s v rest
    refine ⟨?_, ?_, ?_, ?_, ?_⟩ <;> exact fun ht => step_writeReg_next ht (by decide) rfl
  case writeIn =>
    intro s a v rest ht ha
    exact ⟨_, step_writeIn_next ht ha, byteAt_setMem_put_same s .inB a v, setMem_put_writesOnly s .inB a v, rfl⟩
  case writeKey =>
    intro s a v rest ht ha
    exact ⟨_, step_writeKey_next ht ha, byteAt_setMem_put_same s .key a v, setMem_put_writesOnly s .key a v, rfl⟩
  case readReg =>
    intro s r v rest ht _ hv
    exact step_readReg_next ht ((readReg?_eq _ r).trans hv)
  case readOut =>
    intro s a rest ht ha
    refine ⟨_, step_readOut_next ht ha, ?_, rfl⟩
    exact BitVec.toNat_setWidth_of_le (by decide)

/-- Settles O20: the capacity is tested first, then the five bytes of the length field and the pad. -/
theorem fetchBounds : Obligations.FetchBounds := by
  intro s hturn hph
  have hfetch := fetch_inFetch hturn hph
  refine ⟨fun hover => ?_, fun hcap hshort => ?_⟩
  · exact ⟨_, step_err (hfetch.trans (fetchPhase_overCap hover)), errorTaken_takeError .cap rfl rfl⟩
  · exact ⟨_, step_err (hfetch.trans (fetchPhase_short hcap hshort)), errorTaken_takeError .source rfl rfl⟩

end Sys2Proof.Proofs
end

section
/-! SUPPORT. Other key bytes: an operation that does not read `KEY` does the same with them (41_framing.md R144, R145),
and outside STRIP that is every operation of the engine; then the statement on the key. -/

namespace Sys2Proof.Machine

/-! ## Other key bytes -/

/-- The state with other bytes in `KEY`. -/
def State.withKey (k : Mem) (s : State) : State := { s with keyBuf := k }

/-- The same result with other bytes in `KEY`. -/
def Res.withKey {α : Type} (k : Mem) : Res α → Res α
  | .ok a s => .ok a (s.withKey k)
  | .err e s => .err e (s.withKey k)
  | .fault f => .fault f
  | .refuse x => .refuse x

/-- The same outcome with other bytes in `KEY`. -/
def outcomeWithKey (k : Mem) : Host.Outcome State Fault Refusal → Host.Outcome State Fault Refusal
  | .next s => .next (s.withKey k)
  | .fault f => .fault f
  | .refused x => .refused x

/-- Other key bytes before the operation are other key bytes after it, and make no other difference. -/
def KeyBlind {α : Type} (op : State → Res α) : Prop := ∀ k s, op (s.withKey k) = (op s).withKey k

/-- Other key bytes before the row are other key bytes after it, and make no other difference. -/
def RowKeyBlind (row : State → Host.Outcome State Fault Refusal) : Prop :=
  ∀ k s, row (s.withKey k) = outcomeWithKey k (row s)

section
variable {α β : Type} {k : Mem}

/-- Operations in sequence. Their continuations may hold the state before them, whose key bytes differ. -/
theorem andThen_withKey {r r' : Res α} {f f' : α → State → Res β} (hr : r' = r.withKey k)
    (hf : ∀ a t, f' a (t.withKey k) = (f a t).withKey k) : r'.andThen f' = (r.andThen f).withKey k := by
  subst hr
  cases r with
  | ok a t => exact hf a t
  | err e t => rfl
  | fault f => rfl
  | refuse x => rfl

theorem ite_withKey {c : Prop} [Decidable c] {r₁ r₁' r₂ r₂' : Res α} (h₁ : r₁' = r₁.withKey k)
    (h₂ : r₂' = r₂.withKey k) : (if c then r₁' else r₂') = (if c then r₁ else r₂).withKey k := by
  subst h₁ h₂
  exact (apply_ite (Res.withKey k) c r₁ r₂).symm

theorem forUp_withKey {body body' : Nat → State → Res Unit}
    (hb : ∀ i t, body' i (t.withKey k) = (body i t).withKey k) (n a : Nat) (s : State) :
    forUp n a body' (s.withKey k) = (forUp n a body s).withKey k := by
  induction n generalizing a s with
  | zero => rfl
  | succ n ih => exact andThen_withKey (hb a s) fun _ t => ih (a + 1) t

theorem forUp_keyBlind {n a : Nat} {body : Nat → State → Res Unit} (hb : ∀ i, KeyBlind (body i)) :
    KeyBlind (forUp n a body) := fun k s => forUp_withKey (fun i => hb i k) n a s

theorem toOutcome_withKey {r r' : Res Unit} (h : r' = r.withKey k) : r'.toOutcome = outcomeWithKey k r.toOutcome := by
  subst h
  cases r with
  | ok a t => rfl
  | err e t => rfl
  | fault f => rfl
  | refuse x => rfl

theorem KeyBlind.row {op : State → Res Unit} (h : KeyBlind op) : RowKeyBlind fun s => (op s).toOutcome :=
  fun k s => toOutcome_withKey (h k s)

theorem takeError_rowKeyBlind (e : ErrCode) : RowKeyBlind fun s => .next (takeError e s) := fun _ _ => rfl

end

/-! ## Buffers and the stream -/

section
variable {b : Buf}

theorem load_keyBlind (hb : b ≠ .key) (a : Nat) : KeyBlind (load b a) := by
  intro k s
  cases b with
  | key => exact absurd rfl hb
  | _ => exact ite_withKey rfl rfl

theorem store_keyBlind (hb : b ≠ .key) (a : Nat) (v : Byte) : KeyBlind (store b a v) := by
  intro k s
  cases b with
  | key => exact absurd rfl hb
  | _ => exact ite_withKey rfl rfl

theorem memRead_keyBlind (hb : b ≠ .key) (a n : Nat) : KeyBlind (memRead b a n) := by
  intro k s
  induction n generalizing a s with
  | zero => rfl
  | succ n ih => exact andThen_withKey (load_keyBlind hb a k s) fun _ t => andThen_withKey (ih (a + 1) t) fun _ _ => rfl

end

theorem loadRaw_keyBlind (a : Nat) : KeyBlind (load .raw a) := load_keyBlind (by decide) a

theorem storeRaw_keyBlind (a : Nat) (v : Byte) : KeyBlind (store .raw a v) := store_keyBlind (by decide) a v

theorem storeOut_keyBlind (a : Nat) (v : Byte) : KeyBlind (store .out a v) := store_keyBlind (by decide) a v

theorem readL_keyBlind : KeyBlind readL := fun k s =>
  andThen_withKey (memRead_keyBlind (by decide) 0 4 k s) fun _ _ => rfl

/-- `Z` stands in `RB` or in `IN` (41_framing.md R147). -/
theorem zPlace_ne_key (s : State) (j : Nat) : (s.zPlace j).1 ≠ .key := by
  unfold State.zPlace
  split
  · exact nofun
  · exact nofun

theorem loadZ_keyBlind (j : Nat) : KeyBlind (loadZ j) := fun k s => load_keyBlind (zPlace_ne_key s j) (s.zPlace j).2 k s

theorem readZ_keyBlind (a n : Nat) : KeyBlind (readZ a n) := by
  intro k s
  induction n generalizing a s with
  | zero => rfl
  | succ n ih => exact andThen_withKey (loadZ_keyBlind a k s) fun _ t => andThen_withKey (ih (a + 1) t) fun _ _ => rfl

theorem getbit_keyBlind : KeyBlind getbit := fun k s =>
  ite_withKey rfl (andThen_withKey (loadZ_keyBlind (s.bitPos / 8) k s) fun _ _ => rfl)

theorem getbits_keyBlind (n : Nat) : KeyBlind (getbits n) := by
  intro k s
  induction n generalizing s with
  | zero => rfl
  | succ n ih => exact andThen_withKey (getbit_keyBlind k s) fun _ t => andThen_withKey (ih t) fun _ _ => rfl

theorem symbolLoop_keyBlind (lens : List Nat) (left l v : Nat) : KeyBlind (symbolLoop lens left l v) := by
  intro k s
  induction left generalizing l v s with
  | zero => rfl
  | succ left ih =>
    refine andThen_withKey (getbit_keyBlind k s) fun b t => ?_
    cases symbolOf lens l (v <<< 1 ||| b) with
    | some sym => rfl
    | none => exact ih (l + 1) (v <<< 1 ||| b) t

theorem readSymbol_keyBlind (lens : List Nat) : KeyBlind (readSymbol lens) := fun k s =>
  ite_withKey rfl (symbolLoop_keyBlind lens (maxLen lens) 1 0 k s)

/-! ## INFLATE -/

theorem readBlockHeader_keyBlind : KeyBlind readBlockHeader := fun k s =>
  andThen_withKey (getbit_keyBlind k s) fun f t =>
    andThen_withKey (getbits_keyBlind 2 k { t with bfinal := f }) fun _ _ => rfl

theorem inflateEntry_withKey (k : Mem) (s : State) : inflateEntry (s.withKey k) = (inflateEntry s).withKey k := by
  unfold inflateEntry
  rw [apply_ite (State.withKey k)]
  rfl

theorem endBlock_keyBlind : KeyBlind endBlock := fun _ _ => ite_withKey rfl rfl

theorem emit_keyBlind (b : Byte) : KeyBlind (emit b) := fun k s =>
  andThen_withKey (storeRaw_keyBlind s.rawPos b k s) fun _ _ => ite_withKey rfl rfl

theorem storedCopy_keyBlind (left : Nat) : KeyBlind (storedCopy left) := by
  intro k s
  induction left generalizing s with
  | zero => rfl
  | succ left ih =>
    refine ite_withKey rfl (andThen_withKey (loadZ_keyBlind (s.bitPos / 8) k s) fun b t => ?_)
    exact andThen_withKey (emit_keyBlind b k t) fun _ u => ite_withKey rfl (ih { u with bitPos := u.bitPos + 8 })

theorem matchCopy_keyBlind (dist left : Nat) : KeyBlind (matchCopy dist left) := by
  intro k s
  induction left generalizing s with
  | zero => rfl
  | succ left ih =>
    refine andThen_withKey (loadRaw_keyBlind (s.rawPos - dist) k s) fun b t => ?_
    exact andThen_withKey (emit_keyBlind b k t) fun _ u => ite_withKey rfl (ih u)

theorem storedBlock_keyBlind : KeyBlind storedBlock := by
  intro k s
  unfold storedBlock
  refine ite_withKey rfl (andThen_withKey
    (readZ_keyBlind (8 * ((s.bitPos + 7) / 8) / 8) 2 k { s with bitPos := 8 * ((s.bitPos + 7) / 8) }) fun len t => ?_)
  refine andThen_withKey (readZ_keyBlind _ 2 k t) fun nlen u => ite_withKey rfl ?_
  exact andThen_withKey (storedCopy_keyBlind len k { u with bitPos := u.bitPos + 32 }) fun _ x =>
    ite_withKey rfl (endBlock_keyBlind k x)

theorem readClLens_keyBlind (cs : List Nat) : KeyBlind (readClLens cs) := by
  intro k s
  induction cs generalizing s with
  | nil => rfl
  | cons c cs ih =>
    exact andThen_withKey (getbits_keyBlind 3 k s) fun v t => ih { t with clLen := t.clLen.set c v }

theorem dynamicBlock_keyBlind : KeyBlind dynamicBlock := by
  intro k s
  refine andThen_withKey (getbits_keyBlind 5 k s) fun hlit s1 => ?_
  refine andThen_withKey (getbits_keyBlind 5 k s1) fun hdist s2 => ?_
  refine andThen_withKey (getbits_keyBlind 4 k s2) fun hclen s3 => ite_withKey rfl ?_
  exact andThen_withKey (readClLens_keyBlind (clOrder.take (hclen + 4)) k
    { s3 with nlen := hlit + 257, ndist := hdist + 1, clLen := List.replicate 19 0 }) fun _ _ => ite_withKey rfl rfl

theorem buildTables_keyBlind : KeyBlind buildTables := fun _ _ =>
  ite_withKey rfl (ite_withKey (ite_withKey rfl rfl) rfl)

theorem appendLens_keyBlind (v r : Nat) : KeyBlind (appendLens v r) := fun k s =>
  ite_withKey rfl (buildTables_keyBlind k { s with lens := s.lens ++ List.replicate r v })

theorem repeatLens_keyBlind (v r : Nat) : KeyBlind (repeatLens v r) := fun k s =>
  ite_withKey rfl (appendLens_keyBlind v r k s)

/-- A code-length symbol that repeats `v` (42_deflate.md R175). -/
theorem repeatSymbol_keyBlind (v base extra : Nat) :
    KeyBlind fun s => (getbits extra s).andThen fun e t => repeatLens v (base + e) t := fun k s =>
  andThen_withKey (getbits_keyBlind extra k s) fun e t => repeatLens_keyBlind v (base + e) k t

theorem matchLength_keyBlind (base extra : Nat) : KeyBlind (matchLength base extra) := fun k s =>
  andThen_withKey (getbits_keyBlind extra k s) fun _ _ => rfl

theorem matchDistance_keyBlind (base extra : Nat) : KeyBlind (matchDistance base extra) := fun k s =>
  andThen_withKey (getbits_keyBlind extra k s) fun e t => ite_withKey rfl <|
    andThen_withKey (matchCopy_keyBlind (base + e) t.matchLen k t) fun _ _ => ite_withKey rfl rfl

theorem execCl16_rowKeyBlind : RowKeyBlind execCl16 := by
  intro k s
  unfold execCl16
  change (match s.lens.getLast? with | none => _ | some v => _) = _
  cases s.lens.getLast? with
  | none => exact takeError_rowKeyBlind .stream k s
  | some v => exact (repeatSymbol_keyBlind v 3 2).row k s

theorem execLit_rowKeyBlind (b : Byte) : RowKeyBlind (execLit b) := fun k s =>
  toOutcome_withKey (andThen_withKey (emit_keyBlind b k s) fun _ _ => rfl)

/-! ## Pixels -/

theorem put_keyBlind (x y : Nat) (b g r a : Byte) : KeyBlind (put x y b g r a) := fun k s =>
  andThen_withKey (storeOut_keyBlind _ b k s) fun _ s1 =>
    andThen_withKey (storeOut_keyBlind _ g k s1) fun _ s2 =>
      andThen_withKey (storeOut_keyBlind _ r k s2) fun _ s3 => storeOut_keyBlind _ a k s3

theorem putClipped_keyBlind (x y : Nat) (b g r a : Byte) : KeyBlind (putClipped x y b g r a) := fun k s =>
  ite_withKey (put_keyBlind x y b g r a k s) rfl

theorem loadColours_keyBlind (off : Nat) : KeyBlind (loadColours off) := fun k s =>
  andThen_withKey (memRead_keyBlind (by decide) (off + 8) 2 k s) fun _ t =>
    andThen_withKey (memRead_keyBlind (by decide) (off + 10) 2 k t) fun _ _ => rfl

theorem loadColourIndices_keyBlind (off : Nat) : KeyBlind (loadColourIndices off) :=
  forUp_keyBlind fun j => forUp_keyBlind fun _ k s =>
    andThen_withKey (loadRaw_keyBlind (off + 12 + j) k s) fun _ _ => rfl

theorem loadAlphaDxt3_keyBlind (off : Nat) : KeyBlind (loadAlphaDxt3 off) :=
  forUp_keyBlind fun m k s => andThen_withKey (loadRaw_keyBlind (off + m) k s) fun _ _ => rfl

theorem loadAlphaTable_keyBlind (off : Nat) : KeyBlind (loadAlphaTable off) := fun k s =>
  andThen_withKey (loadRaw_keyBlind off k s) fun _ t =>
    andThen_withKey (loadRaw_keyBlind (off + 1) k t) fun _ _ => rfl

theorem loadAlphaIndices_keyBlind (off : Nat) : KeyBlind (loadAlphaIndices off) :=
  forUp_keyBlind fun g k s => andThen_withKey (memRead_keyBlind (by decide) (off + 2 + 3 * g) 3 k s) fun _ t =>
    forUp_withKey (fun _ _ => rfl) 8 0 t

theorem loadAlphaDxt5_keyBlind (off : Nat) : KeyBlind (loadAlphaDxt5 off) := fun k s =>
  andThen_withKey (loadAlphaTable_keyBlind off k s) fun _ t => loadAlphaIndices_keyBlind off k t

theorem writeBlock_keyBlind (dxt5 : Bool) (x y : Nat) : KeyBlind (writeBlock dxt5 x y) :=
  forUp_keyBlind fun j => forUp_keyBlind fun i k s => putClipped_keyBlind (x + i) (y + j) _ _ _ _ k s

theorem dxtBlock_keyBlind (dxt5 : Bool) (col row off : Nat) : KeyBlind (dxtBlock dxt5 col row off) := by
  intro k s
  refine andThen_withKey (ite_withKey (loadAlphaDxt5_keyBlind off k s) (loadAlphaDxt3_keyBlind off k s)) fun _ s1 => ?_
  refine andThen_withKey (loadColours_keyBlind off k s1) fun _ s2 => ?_
  refine andThen_withKey (loadColourIndices_keyBlind off k s2) fun _ s3 => ?_
  exact writeBlock_keyBlind dxt5 (4 * col) (4 * row) k s3

theorem dxtImage_keyBlind (dxt5 : Bool) : KeyBlind (dxtImage dxt5) := fun k s =>
  forUp_withKey (fun row => forUp_withKey (fun col => dxtBlock_keyBlind dxt5 col row _ k) (ceil4 s.w) 0) (ceil4 s.h) 0 s

theorem repackBgra4444_keyBlind : KeyBlind repackBgra4444 := fun k s =>
  forUp_withKey (fun i t => andThen_withKey (loadRaw_keyBlind i k t) fun _ u =>
    andThen_withKey (storeOut_keyBlind (2 * i) _ k u) fun _ x => storeOut_keyBlind (2 * i + 1) _ k x) s.n 0 s

theorem repackCopy_keyBlind : KeyBlind repackCopy := fun k s =>
  forUp_withKey (fun i t => andThen_withKey (loadRaw_keyBlind i k t) fun v u => storeOut_keyBlind i v k u) s.n 0 s

theorem fillTile_keyBlind (tx ty : Nat) (b g r a : Byte) : KeyBlind (fillTile tx ty b g r a) :=
  forUp_keyBlind fun j => forUp_keyBlind fun i => putClipped_keyBlind (4 * tx + i) (4 * ty + j) b g r a

theorem repackTile4444_keyBlind : KeyBlind repackTile4444 := fun k s =>
  forUp_withKey (fun ty => forUp_withKey (fun tx t => andThen_withKey (loadRaw_keyBlind _ k t) fun _ u =>
    andThen_withKey (loadRaw_keyBlind _ k u) fun _ x => fillTile_keyBlind tx ty _ _ _ _ k x) (ceil4 s.w) 0)
    (ceil4 s.h) 0 s

theorem putGray_keyBlind (p : Nat) (v : Byte) : KeyBlind (putGray p v) := fun k s =>
  andThen_withKey (storeOut_keyBlind (4 * p) v k s) fun _ s1 =>
    andThen_withKey (storeOut_keyBlind (4 * p + 1) v k s1) fun _ s2 =>
      andThen_withKey (storeOut_keyBlind (4 * p + 2) v k s2) fun _ s3 => storeOut_keyBlind (4 * p + 3) 255 k s3

theorem repackGray1x16_keyBlind : KeyBlind repackGray1x16 := fun k s =>
  forUp_withKey (fun q => forUp_withKey (fun j t => andThen_withKey (loadRaw_keyBlind q k t) fun _ u =>
    forUp_withKey (fun i => putGray_keyBlind ((8 * q + j) * 16 + i) _ k) 16 0 u) 8 0) s.n 0 s

theorem dispatchAs_keyBlind (fmt : Nat) : KeyBlind (dispatchAs fmt) := fun _ _ =>
  ite_withKey (ite_withKey rfl rfl) rfl

theorem formatRow_rowKeyBlind {repack : State → Res Unit} (fmt : Nat) (h : KeyBlind repack) :
    RowKeyBlind (formatRow fmt repack) := by
  intro k s
  unfold formatRow
  rw [show (s.withKey k).phase = s.phase from rfl]
  cases s.phase with
  | dispatch => exact (dispatchAs_keyBlind fmt).row k s
  | _ => exact toOutcome_withKey (andThen_withKey (h k s) fun _ _ => rfl)

/-! ## Rows -/

theorem command_rowKeyBlind {effect : State → State} (h : ∀ k s, effect (s.withKey k) = (effect s).withKey k) :
    RowKeyBlind (command effect) := by
  intro k s
  unfold command
  rw [h, show (s.withKey k).busy = s.busy from rfl, apply_ite (outcomeWithKey k)]
  rfl

theorem clearResult_withKey (k : Mem) (s : State) : clearResult (s.withKey k) = (clearResult s).withKey k :=
  (apply_ite (State.withKey k) (s.phase = .idle) (clearRegs s) (clearRegs s.forget)).symm

theorem classify_keyBlind (h : Half) : KeyBlind (classify h) := fun _ _ => ite_withKey rfl rfl

/-- Outside STRIP a header row classifies. -/
theorem headerRow_of_not_strip {s : State} (h : Half) (hph : s.phase ≠ .strip) :
    headerRow h s = (classify h s).toOutcome := by
  unfold headerRow
  split
  · exact absurd ‹_› hph
  · rfl

theorem headerRow_withKey {s : State} (k : Mem) (h : Half) (hph : s.phase ≠ .strip) :
    headerRow h (s.withKey k) = outcomeWithKey k (headerRow h s) := by
  rw [headerRow_of_not_strip h hph, headerRow_of_not_strip (s := s.withKey k) h hph]
  exact (classify_keyBlind h).row k s

theorem lengthRow_rowKeyBlind {i : Instr} (h : i ∈ lengthRows.map Prod.fst) : RowKeyBlind (exec i) := by
  obtain ⟨⟨_, v, extra, base⟩, hrow, rfl⟩ := List.mem_map.1 h
  intro k s
  rw [exec_lengthRow hrow, exec_lengthRow hrow]
  exact (matchLength_keyBlind base extra).row k s

theorem distanceRow_rowKeyBlind {i : Instr} (h : i ∈ distanceRows.map Prod.fst) : RowKeyBlind (exec i) := by
  obtain ⟨⟨_, v, extra, base⟩, hrow, rfl⟩ := List.mem_map.1 h
  intro k s
  rw [exec_distanceRow hrow, exec_distanceRow hrow]
  exact (matchDistance_keyBlind base extra).row k s

/-- No row reads the key but a header row in STRIP, the stripper (41_framing.md R144). -/
theorem exec_withKey {i : Instr} {s : State} (k : Mem) (h : (encode i).1 = .hdr16 → s.phase ≠ .strip) :
    exec i (s.withKey k) = outcomeWithKey k (exec i s) := by
  cases i with
  | nop => exact command_rowKeyBlind (effect := fun s => s) (fun _ _ => rfl) k s
  | start => exact command_rowKeyBlind (effect := beginDecode) (fun _ _ => rfl) k s
  | clear => exact command_rowKeyBlind clearResult_withKey k s
  | clearStart => exact command_rowKeyBlind (effect := fun s => beginDecode (clearRegs s)) (fun _ _ => rfl) k s
  | bgra4444 => exact formatRow_rowKeyBlind 1 repackBgra4444_keyBlind k s
  | bgra8888 => exact formatRow_rowKeyBlind 2 repackCopy_keyBlind k s
  | tile4444 => exact formatRow_rowKeyBlind 3 repackTile4444_keyBlind k s
  | rgb565 => exact formatRow_rowKeyBlind 513 repackCopy_keyBlind k s
  | gray1x16 => exact formatRow_rowKeyBlind 517 repackGray1x16_keyBlind k s
  | dxt3 => exact formatRow_rowKeyBlind 1026 (dxtImage_keyBlind false) k s
  | dxt5 => exact formatRow_rowKeyBlind 2050 (dxtImage_keyBlind true) k s
  | unsupported v => exact takeError_rowKeyBlind .format k s
  | plain0178 | plain5E78 | plain9C78 | plainDA78 | obf => exact headerRow_withKey k _ (h rfl)
  | stored => exact storedBlock_keyBlind.row k s
  | fixed => rfl
  | dynamic => exact dynamicBlock_keyBlind.row k s
  | btypeReserved | litlenInvalid | distInvalid => exact takeError_rowKeyBlind .stream k s
  | lit b => exact execLit_rowKeyBlind b k s
  | eob => exact endBlock_keyBlind.row k s
  | len257 | len258 | len259 | len260 | len261 | len262 | len263 | len264 | len265 | len266 | len267 | len268 | len269
    | len270 | len271 | len272 | len273 | len274 | len275 | len276 | len277 | len278 | len279 | len280 | len281
    | len282 | len283 | len284 | len285 => exact lengthRow_rowKeyBlind (by decide) k s
  | dist0 | dist1 | dist2 | dist3 | dist4 | dist5 | dist6 | dist7 | dist8 | dist9 | dist10 | dist11 | dist12 | dist13
    | dist14 | dist15 | dist16 | dist17 | dist18 | dist19 | dist20 | dist21 | dist22 | dist23 | dist24 | dist25
    | dist26 | dist27 | dist28 | dist29 => exact distanceRow_rowKeyBlind (by decide) k s
  | cl0to15 v => exact (appendLens_keyBlind v 1).row k s
  | cl16 => exact execCl16_rowKeyBlind k s
  | cl17 => exact (repeatSymbol_keyBlind 0 3 3).row k s
  | cl18 => exact (repeatSymbol_keyBlind 0 11 7).row k s

/-! ## From the fetch to the step -/

/-- What a step makes of its fetch. -/
def Res.run : Res (Option Instr) → Host.Outcome State Fault Refusal
  | .ok (some i) t => exec i t
  | .ok none t => .next t
  | .err e t => .next (takeError e t)
  | .fault f => .fault f
  | .refuse r => .refused r

theorem step_eq_run (s : State) : step s = (fetch s).run := rfl

/-- The fetch `r'` runs as `r` does, with other bytes in `KEY`. -/
def RunsWithKey (k : Mem) (r r' : Res (Option Instr)) : Prop := r'.run = outcomeWithKey k r.run

section
variable {k : Mem} {s : State}

theorem runsWithKey_ite {c : Prop} [Decidable c] {r₁ r₁' r₂ r₂' : Res (Option Instr)} (h₁ : RunsWithKey k r₁ r₁')
    (h₂ : RunsWithKey k r₂ r₂') : RunsWithKey k (if c then r₁ else r₂) (if c then r₁' else r₂') := by
  split
  · exact h₁
  · exact h₂

theorem runsWithKey_andThen {α : Type} {r r' : Res α} {f f' : α → State → Res (Option Instr)} (hr : r' = r.withKey k)
    (hf : ∀ a t, r = .ok a t → RunsWithKey k (f a t) (f' a (t.withKey k))) :
    RunsWithKey k (r.andThen f) (r'.andThen f') := by
  subst hr
  cases r with
  | ok a t => exact hf a t rfl
  | err e t => rfl
  | fault f => rfl
  | refuse x => rfl

/-- A value selects a row of its own format. -/
theorem runsWithKey_select (f : Format) (v : Nat) (h : f = .hdr16 → s.phase ≠ .strip) :
    RunsWithKey k (select f v s) (select f v (s.withKey k)) := by
  unfold select
  cases hd : decode f v with
  | error e => rfl
  | ok i =>
    have hrow : encode i = (f, _) := (rowOf_of_decode hd).2
    exact exec_withKey k fun hi => h (by rw [← hi, hrow])

theorem fetchPhase_runsWithKey : RunsWithKey k (fetchPhase s) (fetchPhase (s.withKey k)) := by
  refine runsWithKey_ite rfl (runsWithKey_ite rfl (runsWithKey_andThen (readL_keyBlind k s) fun _ _ _ => ?_))
  exact runsWithKey_ite rfl (runsWithKey_ite rfl rfl)

theorem fetchFormat_runsWithKey : RunsWithKey k (fetchFormat s) (fetchFormat (s.withKey k)) :=
  runsWithKey_select (s := { s with fmt := s.effectiveFmt }) .fmt s.effectiveFmt nofun

theorem memRead_state {b : Buf} {a n v : Nat} {t : State} (h : memRead b a n s = .ok v t) : t = s := by
  have hsat := memRead_sat b a n s
  rw [h] at hsat
  exact hsat.2.1

theorem fetchHeader_runsWithKey (hph : s.phase ≠ .strip) :
    RunsWithKey k (fetchHeader s) (fetchHeader (s.withKey k)) := by
  refine runsWithKey_ite rfl (runsWithKey_andThen (memRead_keyBlind (by decide) 5 2 k s) fun v t ht => ?_)
  cases memRead_state ht
  exact runsWithKey_select .hdr16 v fun _ => hph

theorem fetchSymbol_runsWithKey (f : Format) (lens : List Nat) (hf : f ≠ .hdr16) :
    RunsWithKey k ((readSymbol lens s).andThen fun v t => select f v t)
      ((readSymbol lens (s.withKey k)).andThen fun v t => select f v t) :=
  runsWithKey_andThen (readSymbol_keyBlind lens k s) fun v _ _ => runsWithKey_select f v fun h => absurd h hf

theorem fetchInflate_runsWithKey : RunsWithKey k (fetchInflate s) (fetchInflate (s.withKey k)) := by
  unfold fetchInflate
  rw [show (s.withKey k).sub = s.sub from rfl]
  cases s.sub with
  | entry => exact congrArg Host.Outcome.next (inflateEntry_withKey k s)
  | header =>
    exact runsWithKey_andThen (readBlockHeader_keyBlind k s) fun v _ _ => runsWithKey_select .blkhdr v nofun
  | codeLens => exact fetchSymbol_runsWithKey .clsym s.clLen (by decide)
  | litlen => exact fetchSymbol_runsWithKey .litlen s.llLen (by decide)
  | dist => exact fetchSymbol_runsWithKey .dist s.dLen (by decide)

theorem nextAction_runsWithKey (hne : s.phase ≠ .strip) : RunsWithKey k (nextAction s) (nextAction (s.withKey k)) := by
  unfold nextAction
  rw [show (s.withKey k).phase = s.phase from rfl]
  cases hph : s.phase with
  | fetch => exact fetchPhase_runsWithKey
  | dispatch => exact fetchFormat_runsWithKey
  | classify => exact fetchHeader_runsWithKey hne
  | strip => exact absurd hph hne
  | inflate => exact fetchInflate_runsWithKey
  | repack => exact runsWithKey_select .fmt s.fmt nofun
  | idle | done | error => rfl

/-- Outside STRIP a step of the engine does not read the key (41_framing.md R144, R145). -/
theorem step_withKey (hturn : s.engineTurn = true) (hne : s.phase ≠ .strip) :
    step (s.withKey k) = outcomeWithKey k (step s) := by
  rw [step_eq_run, step_eq_run, fetch_engineTurn hturn, fetch_engineTurn (s := s.withKey k) hturn]
  exact nextAction_runsWithKey hne

end

end Sys2Proof.Machine

namespace Sys2Proof.Proofs
open Sys2Proof.Machine

/-- Settles O56: every action of the sequencer and every row but the stripper's commutes with a change of the key. -/
theorem keyUnreadOutsideStrip : Obligations.KeyUnreadOutsideStrip := by
  intro s t k hturn hne ht
  have hkey := step_withKey (k := k) hturn hne
  rw [ht] at hkey
  exact hkey

end Sys2Proof.Proofs
end

section
/-! SUPPORT. The exact outcomes of classification, of one turn of the record loop and of the start of INFLATE
(41_framing.md R140 to R147, 42_deflate.md R160, R184); then the statements of 41_framing.md. -/

namespace Sys2Proof.Machine

section
variable {s t : State}

/-! ## Steps that write no byte -/

/-- What keeps the inputs, `RB`, `RAW` and `OUT` writes no byte. -/
theorem writesNothing_of_readOnly (h : t.readOnly = s.readOnly) (hraw : t.raw = s.raw) (hout : t.out = s.out) :
    WritesNothing s t := by
  have hforgets : t.forgets = s.forgets := congrArg (fun r => r.2.2) h
  intro b a
  cases b with
  | inB => exact byteAt_inB_of_inputs (inputs_of_readOnly h) a
  | key => exact byteAt_key_of_inputs (inputs_of_readOnly h) a
  | rb => exact byteAt_rb_of_readOnly h a
  | raw => simp only [State.byteAt, mem_raw, ageOf_raw, hraw, hforgets]
  | out => simp only [State.byteAt, mem_out, ageOf_out, hout, hforgets]

/-! ## Header rows (41_framing.md R141 to R143) -/

/-- A header row has the meaning of its value (30_encoding.md R95). -/
theorem exec_headerOf {i : Instr} {h : Half} (hi : headerOf i = some h) (s : State) : exec i s = headerRow h s := by
  unfold headerOf at hi
  split at hi
  case h_6 => cases hi
  all_goals
    cases hi
    rfl

theorem headerRow_strip (hph : s.phase = .strip) (h : Half) : headerRow h s = (stripTurn s).toOutcome := by
  simp only [headerRow, hph]

theorem headerRow_classify (hph : s.phase = .classify) (h : Half) : headerRow h s = (classify h s).toOutcome :=
  headerRow_of_not_strip h (hph ▸ nofun)

/-- A value of `ZLIB_HDR_SET` is a plain payload (41_framing.md R142). -/
theorem classify_plain {h : Half} (hm : h ∈ s.cfg.hdrSet) :
    classify h s = .ok () { s with status := s.status &&& 0xFFFFFFEF, phase := .inflate, sub := .entry } :=
  if_pos (List.contains_iff_mem.2 hm)

/-- Any other value is the obfuscated framing (41_framing.md R142, R143). -/
theorem classify_obf {h : Half} (hm : h ∉ s.cfg.hdrSet) :
    classify h s = .ok () { s with status := s.status ||| 0x10, phase := .strip, inPos := 0, rbLen := 0 } :=
  if_neg (mt List.contains_iff_mem.1 hm)

/-- CLASSIFY runs the row of the two header bytes (41_framing.md R141). -/
theorem step_classify (hturn : s.engineTurn = true) (hph : s.phase = .classify) (hp : 2 ≤ s.p)
    (hin : 7 ≤ s.cfg.inCap) : step s = (classify (BitVec.ofNat 16 (s.le .inB 5 2)) s).toOutcome := by
  obtain ⟨i, hd, hx⟩ := decode_hdr16 (le_lt s .inB 5 2)
  have hnext : nextAction s = select .hdr16 (s.le .inB 5 2) s := by
    rw [nextAction_classify hph, fetchHeader, if_neg (Nat.not_lt.2 hp), readHeader_inside hin, Res.andThen_ok]
  rw [step_of_select hturn hnext hd, hx, headerRow_classify hph]

/-- The default header values, little-endian: `78`, then `01`, `5E`, `9C` or `DA` (41_framing.md R141). -/
theorem mem_zlibHdrSet_iff (lo hi : Byte) :
    BitVec.ofNat 16 (lo.toNat + 256 * hi.toNat) ∈ Config.zlibHdrSet ↔
      lo = 0x78 ∧ hi ∈ [(0x01 : Byte), 0x5E, 0x9C, 0xDA] := by
  simp only [Config.zlibHdrSet, List.mem_cons, List.not_mem_nil, or_false]
  bv_omega

/-! ## One record (41_framing.md R144, R145) -/

/-- From `s` to `t` the first `k` bytes of the record at `IN_POS` have been appended to `RB`, each xor-ed with the key
byte of its place, and nothing else has changed. -/
structure RecordCopied (s : State) (k : Nat) (t : State) : Prop where
  same : t = { s with rb := t.rb, rbLen := s.rbLen + k }
  bytes : ∀ j < k, t.byteAt .rb (s.rbLen + j) = s.byteAt .inB (5 + (s.inPos + j)) ^^^ s.byteAt .key j
  frame : WritesOnly .rb s.rbLen (s.rbLen + k) s t

theorem RecordCopied.refl (s : State) : RecordCopied s 0 s := ⟨rfl, nofun, fun _ _ _ => rfl⟩

theorem RecordCopied.inputs {k : Nat} (h : RecordCopied s k t) : t.inputs = s.inputs :=
  (congrArg State.inputs h.same).trans rfl

theorem RecordCopied.status {k : Nat} (h : RecordCopied s k t) : t.status = s.status := by rw [h.same]

theorem RecordCopied.cfg {k : Nat} (h : RecordCopied s k t) : t.cfg = s.cfg := by rw [h.same]

theorem stripByte_inside {i : Nat} (hkey : i < s.cfg.keyLen) (hin : 5 + (s.inPos + i) < s.cfg.inCap)
    (hrb : s.rbLen < s.cfg.rbCap) :
    stripByte i s = .ok () { s with
      rb := s.rb.put s.rbLen (s.byteAt .inB (5 + (s.inPos + i)) ^^^ s.byteAt .key i), rbLen := s.rbLen + 1 } := by
  rw [stripByte, keyByte, if_neg (Nat.not_le.2 hkey), load_inside (b := .key) hkey, Res.andThen_ok, loadPayload,
    load_inside (b := .inB) hin, Res.andThen_ok, store_inside (b := .rb) hrb]
  rfl

/-- `key_byte` raises at the end of the key (41_framing.md R145). -/
theorem stripByte_keyEnd {i : Nat} (hkey : s.cfg.keyLen ≤ i) : stripByte i s = .err .key s := by
  rw [stripByte, keyByte, if_pos hkey, Res.andThen_err]

/-- One byte more of the record. -/
theorem RecordCopied.next {k : Nat} (h : RecordCopied s k t) (hkey : k < s.cfg.keyLen)
    (hin : 5 + (s.inPos + k) < s.cfg.inCap) (hrb : s.rbLen + k < s.cfg.rbCap) :
    ∃ u, stripByte k t = .ok () u ∧ RecordCopied s (k + 1) u := by
  obtain ⟨hsame, hbytes, hframe⟩ := h
  obtain ⟨m, rfl⟩ : ∃ m, t = { s with rb := m, rbLen := s.rbLen + k } := ⟨t.rb, hsame⟩
  refine ⟨_, stripByte_inside hkey hin hrb, rfl, fun j hj => ?_, fun c a hca => ?_⟩
  · obtain hlt | rfl : j < k ∨ j = k := by omega
    · exact (byteAt_setMem_put_other { s with rb := m, rbLen := s.rbLen + k } .rb .rb (s.rbLen + k) (s.rbLen + j) _
        (.inr (by omega))).trans (hbytes j hlt)
    · exact byteAt_setMem_put_same { s with rb := m, rbLen := s.rbLen + j } .rb (s.rbLen + j) _
  · exact (byteAt_setMem_put_other { s with rb := m, rbLen := s.rbLen + k } .rb c (s.rbLen + k) a _
      (hca.imp_right (by omega))).trans (hframe c a (hca.imp_right (by omega)))

/-- The bytes of a record no longer than the key. -/
theorem stripRecord_copied {z : Nat} (hkey : z ≤ s.cfg.keyLen) (hin : 5 + (s.inPos + z) ≤ s.cfg.inCap)
    (hrb : s.rbLen + z ≤ s.cfg.rbCap) : ∃ t, forUp z 0 stripByte s = .ok () t ∧ RecordCopied s z t := by
  have hloop := forUp_ok (body := stripByte) (RecordCopied s) z 0 (.refl s) fun i t _ hi ht =>
    ht.next (by omega) (by omega) (by omega)
  rwa [Nat.zero_add] at hloop

/-- The bytes of a record longer than the key: the loop raises where the key ends. -/
theorem stripRecord_keyEnd {z : Nat} (hkey : s.cfg.keyLen < z) (hin : 5 + (s.inPos + z) ≤ s.cfg.inCap)
    (hrb : s.rbLen + s.cfg.keyLen ≤ s.cfg.rbCap) :
    ∃ t, forUp z 0 stripByte s = .err .key t ∧ RecordCopied s s.cfg.keyLen t := by
  have hloop : (forUp z 0 stripByte s).Sat (fun _ t => RecordCopied s (0 + z) t ∧ 0 + z ≤ s.cfg.keyLen)
      (fun e t => e = .key ∧ RecordCopied s s.cfg.keyLen t) fun _ => False := by
    refine forUp_sat (fun i t => RecordCopied s i t ∧ i ≤ s.cfg.keyLen) z 0 ⟨.refl s, Nat.zero_le _⟩ ?_
    rintro i t - hi ⟨ht, hle⟩
    obtain hlt | rfl : i < s.cfg.keyLen ∨ i = s.cfg.keyLen := by omega
    · obtain ⟨u, hu, hnext⟩ := ht.next hlt (by omega) (by omega)
      rw [hu]
      exact ⟨hnext, hlt⟩
    · rw [stripByte_keyEnd (congrArg Config.keyLen ht.cfg).le]
      exact ⟨rfl, ht⟩
  revert hloop
  cases forUp z 0 stripByte s with
  | ok a t => exact fun hend => absurd hend.2 (by omega)
  | err e t => exact fun ⟨he, ht⟩ => ⟨t, he ▸ rfl, ht⟩
  | fault f => exact False.elim
  | refuse x => exact False.elim

/-! ## One turn of the record loop (41_framing.md R144) -/

theorem stripTurn_end (h : s.p ≤ s.inPos) : stripTurn s = .ok () { s with phase := .inflate, sub := .entry } :=
  if_pos h

theorem stripTurn_cutShort (h : s.inPos < s.p) (h4 : s.p < s.inPos + 4) : stripTurn s = .err .framing s := by
  rw [stripTurn, if_neg (Nat.not_le.2 h), if_pos h4]

/-- A size field inside the payload: the record runs past the payload, or its bytes follow. -/
theorem stripTurn_sized (hin : 5 + s.p ≤ s.cfg.inCap) (h4 : s.inPos + 4 ≤ s.p) :
    stripTurn s =
      if s.p - (s.inPos + 4) < s.le .inB (5 + s.inPos) 4 then .err .framing { s with inPos := s.inPos + 4 }
      else (forUp (s.le .inB (5 + s.inPos) 4) 0 stripByte { s with inPos := s.inPos + 4 }).andThen fun _ t =>
        .ok () { t with inPos := t.inPos + s.le .inB (5 + s.inPos) 4 } := by
  rw [stripTurn, if_neg (by omega), if_neg (by omega), memRead_inside (by rw [capOf_inB]; omega), Res.andThen_ok]

theorem stripTurn_past (hin : 5 + s.p ≤ s.cfg.inCap) (h4 : s.inPos + 4 ≤ s.p)
    (hz : s.p < s.inPos + 4 + s.le .inB (5 + s.inPos) 4) :
    stripTurn s = .err .framing { s with inPos := s.inPos + 4 } := by
  rw [stripTurn_sized hin h4, if_pos (by omega)]

theorem stripTurn_record (hin : 5 + s.p ≤ s.cfg.inCap) (hz : s.inPos + 4 + s.le .inB (5 + s.inPos) 4 ≤ s.p) :
    stripTurn s =
      (forUp (s.le .inB (5 + s.inPos) 4) 0 stripByte { s with inPos := s.inPos + 4 }).andThen fun _ t =>
        .ok () { t with inPos := t.inPos + s.le .inB (5 + s.inPos) 4 } := by
  rw [stripTurn_sized hin (by omega), if_neg (by omega)]

/-! ## The start of INFLATE (41_framing.md R147; 42_deflate.md R160, R184) -/

theorem inflateEntry_eq (hph : s.phase = .inflate) (hsub : s.sub = .entry) :
    inflateEntry s = { s with
      zLen := if s.isObf then s.rbLen else s.p, bitPos := 16, rawPos := 0
      phase := if s.n = 0 then .repack else .inflate, sub := if s.n = 0 then .entry else .header } := by
  by_cases hn : s.n = 0
  · simp only [inflateEntry, hn, hsub, if_true]
  · simp only [inflateEntry, hn, hph, if_false]

theorem step_inflateEntry (hturn : s.engineTurn = true) (hph : s.phase = .inflate) (hsub : s.sub = .entry) :
    step s = .next (inflateEntry s) :=
  step_ok_none (by simp only [fetch_engineTurn hturn, nextAction_inflate hph, fetchInflate, hsub])

end

end Sys2Proof.Machine

namespace Sys2Proof.Proofs
open Sys2Proof.Machine

/-- Settles O24: the header rows test membership, and CLASSIFY runs the row of the two header bytes. -/
theorem classification : Obligations.Classification := by
  refine ⟨fun s hturn hph hp => ?short, fun s hturn hph hp hin => ?header, fun s hset => ?members,
    fun i h s hi hph => ?row⟩
  case short =>
    have herr : nextAction s = .err .framing s := by rw [nextAction_classify hph, fetchHeader, if_pos hp]
    exact ⟨_, step_err ((fetch_engineTurn hturn).trans herr), errorTaken_takeError .framing rfl rfl⟩
  case header =>
    have hstep := step_classify hturn hph hp (by omega)
    rw [show s.le .inB 5 2 = (s.byteAt .inB 5).toNat + 256 * (s.byteAt .inB 6).toNat from rfl] at hstep
    refine ⟨fun hm => ?_, fun hm => ?_⟩
    · rw [hstep, classify_plain hm]
      rfl
    · rw [hstep, classify_obf hm]
      rfl
  case members =>
    rw [hset]
    exact mem_zlibHdrSet_iff _ _
  case row =>
    rw [exec_headerOf hi, headerRow_classify hph]
    refine ⟨fun hm => ?_, fun hm => ?_⟩
    · rw [classify_plain hm]
      exact ⟨_, rfl, rfl, writesNothing_of_readOnly rfl rfl rfl⟩
    · rw [classify_obf hm]
      exact ⟨_, rfl, rfl, writesNothing_of_readOnly rfl rfl rfl⟩

/-- Settles O25: by induction on the bytes of the record. -/
theorem stripRecord : Obligations.StripRecord := by
  intro i h s hi hph hin h4 hz hkey hrb
  rw [exec_headerOf hi, headerRow_strip hph, stripTurn_record hin hz]
  generalize s.le .inB (5 + s.inPos) 4 = z at *
  obtain ⟨t, hloop, hsame, hbytes, hframe⟩ := stripRecord_copied (s := { s with inPos := s.inPos + 4 }) (z := z) hkey
    (by dsimp only; omega) hrb
  rw [hloop, Res.andThen_ok]
  refine ⟨_, rfl, hbytes, hframe, ?_⟩
  rw [hsame]

/-- Settles O26: the tests of one turn in their order; where the key is too short, the loop over the record's bytes
raises. -/
theorem stripEndsOrRaises : Obligations.StripEndsOrRaises := by
  intro i h s hi hph hin
  rw [exec_headerOf hi, headerRow_strip hph]
  refine ⟨fun hend => ?_, fun hlt h4 => ?_, fun h4 hz => ?_, fun hz hkey hrb => ?_⟩
  · rw [stripTurn_end hend]
    exact ⟨_, rfl, rfl, writesNothing_of_readOnly rfl rfl rfl⟩
  · rw [stripTurn_cutShort hlt h4]
    exact ⟨_, rfl, errorTaken_takeError .framing rfl rfl⟩
  · rw [stripTurn_past hin h4 hz]
    exact ⟨_, rfl, errorTaken_takeError .framing rfl rfl⟩
  · obtain ⟨t, hloop, ht⟩ := stripRecord_keyEnd (s := { s with inPos := s.inPos + 4 }) hkey
      (by dsimp only; omega) hrb
    rw [stripTurn_record hin hz, hloop, Res.andThen_err]
    exact ⟨_, rfl, errorTaken_takeError .key (ht.inputs.trans rfl) (ht.status.trans rfl)⟩

/-- Settles O27: the step is `inflateEntry`, whose test of `N` decides the phase and the place in INFLATE. -/
theorem inflateEntry : Obligations.InflateEntry := fun _ hturn hph hsub =>
  have heq := inflateEntry_eq hph hsub
  ⟨_, step_inflateEntry hturn hph hsub, heq, heq ▸ writesNothing_of_readOnly rfl rfl rfl⟩

end Sys2Proof.Proofs
end

section
/-! SUPPORT. The canonical Huffman codes (42_deflate.md R170 to R172): which symbol a codeword is found for, what the
decoder's loop does along a codeword, the validity test of a set of code lengths; then the statements on codes. -/

namespace Sys2Proof.Machine

/-! ## The symbol of a codeword (42_deflate.md R170, R171) -/

/-- The symbol with `k` others of its length before it. -/
theorem nthOfLen_eq_some_iff {l k base sym : Nat} {lens : List Nat} :
    nthOfLen l k base lens = some sym ↔ ∃ i, sym = base + i ∧ lens[i]? = some l ∧ (lens.take i).count l = k := by
  induction lens generalizing k base with
  | nil => simp [nthOfLen]
  | cons x xs ih =>
    rw [← Nat.or_exists_add_one]
    by_cases hx : x = l
    · subst hx
      cases k with
      | zero => simp [nthOfLen, eq_comm]
      | succ k => simp [nthOfLen, ih, Nat.add_assoc, Nat.add_comm 1]
    · simp [nthOfLen, hx, ih, Nat.add_assoc, Nat.add_comm 1]

/-- The symbol found for `l` bits of value `v` is the one of length `l` whose canonical codeword is `v`. -/
theorem symbolOf_eq_some_iff {lens : List Nat} {l v sym : Nat} :
    symbolOf lens l v = some sym ↔ sym < lens.length ∧ lens.getD sym 0 = l ∧ codeword lens sym = v := by
  have hlen : lens[sym]? = some l ↔ sym < lens.length ∧ lens.getD sym 0 = l := by
    rw [List.getElem?_eq_some_iff]
    exact ⟨fun ⟨h, he⟩ => ⟨h, by simp [h, he]⟩, fun ⟨h, he⟩ => ⟨h, by simpa [h] using he⟩⟩
  have hnth : ∀ k, nthOfLen l k 0 lens = some sym ↔
      (sym < lens.length ∧ lens.getD sym 0 = l) ∧ (lens.take sym).count l = k := by
    intro k
    rw [nthOfLen_eq_some_iff, ← hlen]
    simp
  rw [← and_assoc, symbolOf]
  split
  · refine ⟨nofun, fun ⟨⟨_, hl⟩, hv⟩ => ?_⟩
    rw [codeword, hl] at hv
    omega
  · rw [hnth, codeword]
    refine and_congr_right fun ⟨_, hl⟩ => ?_
    rw [hl]
    omega

/-! ## Along a codeword (42_deflate.md R171; 30_encoding.md R107) -/

@[simp] theorem zBitsAre_bitPos (s : State) (k m : Nat) (bits : List Bool) :
    ({ s with bitPos := m } : State).zBitsAre k bits ↔ s.zBitsAre k bits := by
  induction bits generalizing k with
  | nil => exact Iff.rfl
  | cons b bs ih => exact and_congr Iff.rfl (ih (k + 1))

/-- The first bits of a codeword, and one more. -/
theorem shiftLeft_or_testBit (c d : Nat) : (c >>> (d + 1)) <<< 1 ||| (c.testBit d).toNat = c >>> d := by
  rw [← Nat.shiftLeft_add_eq_or_of_lt (Bool.toNat_lt _), Nat.shiftRight_succ, Nat.toNat_testBit, Nat.shiftLeft_eq,
    Nat.shiftRight_eq_div_pow]
  omega

/-- One turn of the decoder's loop where the stream goes on with bit `d` of `c`, the bits above it read already, and
the bits read are no codeword. -/
theorem symbolLoop_none {lens : List Nat} {left l c d : Nat} {s : State} (hz : s.zInside) (h : s.bitPos < 8 * s.zLen)
    (hbit : s.zBit s.bitPos = (c.testBit d).toNat) (hnone : symbolOf lens l (c >>> d) = none) :
    symbolLoop lens (left + 1) l (c >>> (d + 1)) s =
      symbolLoop lens left (l + 1) (c >>> d) { s with bitPos := s.bitPos + 1 } := by
  simp only [symbolLoop, getbit_inside hz h, Res.andThen_ok, hbit, shiftLeft_or_testBit, hnone]

/-- One turn of the decoder's loop where the stream goes on with bit 0 of `c`, the bits above it read already, and the
bits read are a codeword. -/
theorem symbolLoop_some {lens : List Nat} {left l c sym : Nat} {s : State} (hz : s.zInside) (h : s.bitPos < 8 * s.zLen)
    (hbit : s.zBit s.bitPos = (c.testBit 0).toNat) (hsome : symbolOf lens l c = some sym) :
    symbolLoop lens (left + 1) l (c >>> 1) s = .ok sym { s with bitPos := s.bitPos + 1 } := by
  have hread := shiftLeft_or_testBit c 0
  rw [Nat.zero_add, Nat.shiftRight_zero] at hread
  simp only [symbolLoop, getbit_inside hz h, Res.andThen_ok, hbit, hread, hsome]

/-- The decoder's loop where the stream goes on with the last `d + 1` bits of a symbol's codeword. -/
theorem symbolLoop_codeword {lens : List Nat} {left l d sym : Nat} {s : State} (hl : 1 ≤ l) (hd : d < left)
    (hsym : sym < lens.length) (hL : lens.getD sym 0 = l + d) (hz : s.zInside) (hend : s.bitPos + (d + 1) ≤ 8 * s.zLen)
    (hbits : s.zBitsAre s.bitPos (msbFirst (d + 1) (codeword lens sym))) :
    symbolLoop lens left l (codeword lens sym >>> (d + 1)) s = .ok sym { s with bitPos := s.bitPos + (d + 1) } := by
  obtain ⟨left, rfl⟩ : ∃ k, left = k + 1 := ⟨left - 1, by omega⟩
  induction d generalizing l left s with
  | zero =>
    exact symbolLoop_some hz (by omega) hbits.1 (symbolOf_eq_some_iff.2 ⟨hsym, hL, rfl⟩)
  | succ d ih =>
    obtain ⟨left, rfl⟩ : ∃ k, left = k + 1 := ⟨left - 1, by omega⟩
    rw [symbolLoop_none hz (by omega) hbits.1 (symbolOf_prefix hl hL),
      ih (l := l + 1) (s := { s with bitPos := s.bitPos + 1 }) (by omega) (by omega) hz (by dsimp only; omega)
        ((zBitsAre_bitPos ..).2 hbits.2) left (by omega)]
    simp only [Nat.add_assoc, Nat.add_comm 1]

/-- The decoder's loop where the stream has ended. -/
theorem symbolLoop_end {lens : List Nat} {left l v : Nat} {s : State} (h : 8 * s.zLen ≤ s.bitPos) :
    symbolLoop lens (left + 1) l v s = .err .trunc s := by
  rw [symbolLoop, getbit_end h, Res.andThen_err]

/-- The decoder's loop where the stream ends with `k` bits of a codeword, before its last. -/
theorem symbolLoop_cutShort {lens : List Nat} {left l d k sym : Nat} {s : State} (hl : 1 ≤ l) (hd : d < left)
    (hk : k ≤ d) (hL : lens.getD sym 0 = l + d) (hz : s.zInside) (hend : s.bitPos + k = 8 * s.zLen)
    (hbits : s.zBitsAre s.bitPos ((msbFirst (d + 1) (codeword lens sym)).take k)) :
    symbolLoop lens left l (codeword lens sym >>> (d + 1)) s = .err .trunc { s with bitPos := s.bitPos + k } := by
  obtain ⟨left, rfl⟩ : ∃ k, left = k + 1 := ⟨left - 1, by omega⟩
  induction k generalizing l d left s with
  | zero => exact symbolLoop_end hend.ge
  | succ k ih =>
    obtain ⟨d, rfl⟩ : ∃ m, d = m + 1 := ⟨d - 1, by omega⟩
    obtain ⟨left, rfl⟩ : ∃ k, left = k + 1 := ⟨left - 1, by omega⟩
    rw [symbolLoop_none hz (by omega) hbits.1 (symbolOf_prefix hl hL),
      ih (l := l + 1) (s := { s with bitPos := s.bitPos + 1 }) (by omega) (by omega) (by omega) hz
        (by dsimp only; omega) ((zBitsAre_bitPos ..).2 hbits.2) left (by omega)]
    simp only [Nat.add_assoc, Nat.add_comm 1]

/-! ## The longest code length (42_deflate.md R171) -/

theorem maxLen_le_iff {lens : List Nat} {m : Nat} : maxLen lens ≤ m ↔ ∀ l ∈ lens, l ≤ m := by
  have hfold : ∀ b, lens.foldl max b ≤ m ↔ b ≤ m ∧ ∀ l ∈ lens, l ≤ m := by
    induction lens with
    | nil => simp
    | cons x xs ih => simp [ih, and_assoc]
  simpa [maxLen] using hfold 0

theorem getD_le_maxLen (lens : List Nat) (sym : Nat) : lens.getD sym 0 ≤ maxLen lens := by
  by_cases h : sym < lens.length
  · rw [List.getD_eq_getElem _ _ h]
    exact maxLen_le_iff.1 le_rfl _ (List.getElem_mem h)
  · rw [List.getD_eq_default _ _ (by omega)]
    exact Nat.zero_le _

/-- A code with a symbol is read by the loop. -/
theorem readSymbol_of_used {lens : List Nat} (h : maxLen lens ≠ 0) (s : State) :
    readSymbol lens s = symbolLoop lens (maxLen lens) 1 0 s := if_neg h

/-- The loop starts on a symbol's codeword with none of its bits read: the codeword fits in its length. -/
theorem readSymbol_along {lens : List Nat} {sym d : Nat} (h15 : ∀ l ∈ lens, l ≤ 15) (hk : kraft lens ≤ 2 ^ 15)
    (hd : lens.getD sym 0 = 1 + d) (s : State) :
    readSymbol lens s = symbolLoop lens (maxLen lens) 1 (codeword lens sym >>> (d + 1)) s := by
  have hmax := getD_le_maxLen lens sym
  have hlt := codeword_lt (sym := sym) h15 hk (by omega)
  rw [readSymbol_of_used (by omega), Nat.shiftRight_eq_zero _ _ (by rwa [Nat.add_comm d, ← hd])]

/-- A code that is not over-subscribed, where the stream goes on with the codeword of a symbol. -/
theorem readSymbol_codeword {lens : List Nat} {sym : Nat} {s : State} (h15 : ∀ l ∈ lens, l ≤ 15)
    (hk : kraft lens ≤ 2 ^ 15) (hsym : sym < lens.length) (h0 : lens.getD sym 0 ≠ 0) (hz : s.zInside)
    (hend : s.bitPos + lens.getD sym 0 ≤ 8 * s.zLen)
    (hbits : s.zBitsAre s.bitPos (msbFirst (lens.getD sym 0) (codeword lens sym))) :
    readSymbol lens s = .ok sym { s with bitPos := s.bitPos + lens.getD sym 0 } := by
  have hmax := getD_le_maxLen lens sym
  obtain ⟨d, hd⟩ : ∃ d, lens.getD sym 0 = d + 1 := ⟨lens.getD sym 0 - 1, by omega⟩
  have hd' := hd.trans (Nat.add_comm d 1)
  rw [hd] at hend hbits ⊢
  rw [readSymbol_along h15 hk hd', symbolLoop_codeword le_rfl (by omega) hsym hd' hz hend hbits]

/-- A code that is not over-subscribed, where the stream ends inside the codeword of a symbol. -/
theorem readSymbol_cutShort {lens : List Nat} {sym left : Nat} {s : State} (h15 : ∀ l ∈ lens, l ≤ 15)
    (hk : kraft lens ≤ 2 ^ 15) (hz : s.zInside) (hend : s.bitPos + left = 8 * s.zLen) (hleft : left < lens.getD sym 0)
    (hbits : s.zBitsAre s.bitPos ((msbFirst (lens.getD sym 0) (codeword lens sym)).take left)) :
    readSymbol lens s = .err .trunc { s with bitPos := s.bitPos + left } := by
  have hmax := getD_le_maxLen lens sym
  obtain ⟨d, hd⟩ : ∃ d, lens.getD sym 0 = d + 1 := ⟨lens.getD sym 0 - 1, by omega⟩
  have hd' := hd.trans (Nat.add_comm d 1)
  rw [hd] at hbits
  rw [readSymbol_along h15 hk hd', symbolLoop_cutShort le_rfl (by omega) (by omega) hd' hz hend hbits]

/-! ## Codes that cannot be used (42_deflate.md R171, R172) -/

/-- A code with no symbols. -/
theorem readSymbol_unused {lens : List Nat} (h : ∀ l ∈ lens, l = 0) (s : State) :
    readSymbol lens s = .err .stream s :=
  if_pos (Nat.le_zero.1 (maxLen_le_iff.2 fun l hl => (h l hl).le))

/-- A code in use at the end of the stream. -/
theorem readSymbol_end {lens : List Nat} {s : State} (hused : ∃ l ∈ lens, l ≠ 0) (h : 8 * s.zLen ≤ s.bitPos) :
    readSymbol lens s = .err .trunc s := by
  obtain ⟨l, hl, h0⟩ := hused
  have hmax : l ≤ maxLen lens := maxLen_le_iff.1 le_rfl l hl
  obtain ⟨m, hm⟩ : ∃ m, maxLen lens = m + 1 := ⟨maxLen lens - 1, by omega⟩
  rw [readSymbol_of_used (by omega), hm, symbolLoop_end h]

/-- A code whose one symbol `k` has length 1. -/
def OnlySymbol (lens : List Nat) (k : Nat) : Prop := lens.getD k 0 = 1 ∧ ∀ j, j ≠ k → lens.getD j 0 = 0

theorem OnlySymbol.maxLen_eq {lens : List Nat} {k : Nat} (h : OnlySymbol lens k) : maxLen lens = 1 := by
  refine le_antisymm (maxLen_le_iff.2 fun l hl => ?_) (h.1 ▸ getD_le_maxLen lens k)
  obtain ⟨j, hj, rfl⟩ := List.getElem_of_mem hl
  rw [← List.getD_eq_getElem lens 0 hj]
  by_cases hjk : j = k
  · exact (hjk ▸ h.1).le
  · exact (h.2 j hjk).le.trans (Nat.zero_le 1)

theorem OnlySymbol.lt_length {lens : List Nat} {k : Nat} (h : OnlySymbol lens k) : k < lens.length := by
  by_contra hk
  exact absurd h.1 (by simp [List.getElem?_eq_none (Nat.not_lt.1 hk)])

/-- No symbol stands before the only one. -/
theorem OnlySymbol.eq_zero_of_mem_take {lens : List Nat} {k l : Nat} (h : OnlySymbol lens k) (hl : l ∈ lens.take k) :
    l = 0 := by
  obtain ⟨j, hj, rfl⟩ := List.getElem_of_mem hl
  rw [List.length_take] at hj
  rw [List.getElem_take, ← List.getD_eq_getElem lens 0 (by omega)]
  exact h.2 j (by omega)

/-- The codeword of the only symbol is the bit 0. -/
theorem OnlySymbol.codeword_eq {lens : List Nat} {k : Nat} (h : OnlySymbol lens k) : codeword lens k = 0 := by
  have hcount : (lens.take k).count 1 = 0 :=
    List.count_eq_zero.2 fun hmem => absurd (h.eq_zero_of_mem_take hmem) one_ne_zero
  rw [codeword, h.1, hcount]
  rfl

theorem OnlySymbol.symbolOf_one {lens : List Nat} {k : Nat} (h : OnlySymbol lens k) : symbolOf lens 1 1 = none := by
  rw [Option.eq_none_iff_forall_ne_some]
  intro sym hsym
  obtain ⟨-, hlen, hcode⟩ := symbolOf_eq_some_iff.1 hsym
  by_cases hk : sym = k
  · rw [hk, h.codeword_eq] at hcode
    exact absurd hcode zero_ne_one
  · exact absurd ((h.2 sym hk).symm.trans hlen) zero_ne_one

/-- A code with one symbol, where the next bit is 1. -/
theorem OnlySymbol.readSymbol_one {lens : List Nat} {k : Nat} {s : State} (h : OnlySymbol lens k) (hz : s.zInside)
    (hend : s.bitPos < 8 * s.zLen) (hbit : s.zBit s.bitPos = 1) :
    readSymbol lens s = .err .stream { s with bitPos := s.bitPos + 1 } := by
  have hloop := symbolLoop_none (lens := lens) (left := 0) (l := 1) (c := 1) (d := 0) hz hend hbit h.symbolOf_one
  rwa [readSymbol_of_used (h.maxLen_eq ▸ one_ne_zero), h.maxLen_eq]

/-! ## The validity test (42_deflate.md R172) -/

theorem forall_getD_eq_zero_iff {lens : List Nat} : (∀ j, lens.getD j 0 = 0) ↔ ∀ l ∈ lens, l = 0 := by
  induction lens with
  | nil => simp
  | cons x xs ih => rw [← Nat.and_forall_add_one, List.forall_mem_cons, ← ih]; rfl

theorem onlySymbol_cons_zero {x : Nat} {xs : List Nat} : OnlySymbol (x :: xs) 0 ↔ x = 1 ∧ ∀ l ∈ xs, l = 0 := by
  rw [OnlySymbol, ← Nat.and_forall_add_one, ← forall_getD_eq_zero_iff]
  simp

theorem onlySymbol_cons_succ {x k : Nat} {xs : List Nat} :
    OnlySymbol (x :: xs) (k + 1) ↔ x = 0 ∧ OnlySymbol xs k := by
  rw [OnlySymbol, ← Nat.and_forall_add_one, OnlySymbol]
  simp [and_left_comm]

/-- A set of lengths with one length other than 0, and that 1, is that of a code with one symbol. -/
theorem filter_ne_zero_eq_one_iff {lens : List Nat} : lens.filter (· != 0) = [1] ↔ ∃ k, OnlySymbol lens k := by
  induction lens with
  | nil => simp [OnlySymbol]
  | cons x xs ih =>
    rw [← Nat.or_exists_add_one, onlySymbol_cons_zero]
    simp only [onlySymbol_cons_succ, exists_and_left, ← ih]
    by_cases hx : x = 0
    · simp [hx]
    · simp [hx, List.filter_eq_nil_iff]

/-- The three sets of lengths that pass, of those that are not over-subscribed. -/
theorem codeLengthsOk_iff {isCl : Bool} {lens : List Nat} :
    codeLengthsOk isCl lens = true ↔
      kraft lens ≤ 2 ^ 15 ∧ (kraft lens = 2 ^ 15 ∨ (∀ l ∈ lens, l = 0) ∨ isCl = false ∧ ∃ k, OnlySymbol lens k) := by
  have hall : (∀ l ∈ lens, l = 0) ↔ lens.all (· == 0) = true := by simp
  rw [← filter_ne_zero_eq_one_iff, hall, codeLengthsOk]
  generalize 2 ^ 15 = full
  rcases lt_trichotomy (kraft lens) full with hlt | heq | hgt
  · simp [hlt.le, hlt.not_gt, hlt.ne]
  · simp [heq]
  · simp [hgt, hgt.not_ge]

end Sys2Proof.Machine

namespace Sys2Proof.Proofs
open Sys2Proof.Machine

/-- Settles O7: the symbols of a length stand in the order of their codewords. -/
theorem symbolOfIsCanonical : Obligations.SymbolOfIsCanonical := fun _ _ _ _ _ => symbolOf_eq_some_iff

/-- Settles O8: no codeword is the beginning of another, so the loop reads this one to its end, where it finds the
symbol. -/
theorem huffmanDecode : Obligations.HuffmanDecode := fun _ _ _ h15 hk hsym h0 hz hend hbits =>
  readSymbol_codeword h15 hk hsym h0 hz hend hbits

/-- Settles O9: the test's three answers in their order. -/
theorem codeLengthsCheck : Obligations.CodeLengthsCheck := by
  intro isCl lens
  have hone : (∃ k < lens.length, lens.getD k 0 = 1 ∧ ∀ j, j ≠ k → lens.getD j 0 = 0) ↔ ∃ k, OnlySymbol lens k :=
    exists_congr fun _ => ⟨And.right, fun h => ⟨h.lt_length, h⟩⟩
  rw [codeLengthsOk_iff, hone]

end Sys2Proof.Proofs
end

section
/-! SUPPORT. The exact outcomes of the elements of INFLATE that write at most one byte: where the stream ends, codes that
cannot be used, literals, the end of a block, the fixed codes, the tables of a dynamic block (42_deflate.md R162, R164,
R168, R171, R176, R182); then the statements on them. -/

namespace Sys2Proof.Machine

/-! ## Where an operation raises (60_exceptions.md R290) -/

/-- An operation that raises, having moved no input and no flag. -/
theorem raises_of_err {s t : State} {e : ErrCode} {r : Res Unit} (h : r = .err e t) (hin : t.inputs = s.inputs)
    (hst : t.status = s.status) : Reaches (ErrorTaken e s) r.toOutcome :=
  ⟨_, congrArg Res.toOutcome h, errorTaken_takeError e hin hst⟩

/-- In the engine's turn a step of INFLATE whose fetch raises. -/
theorem step_inflate_raises {s t : State} {e : ErrCode} (hturn : s.engineTurn = true) (hph : s.phase = .inflate)
    (h : fetchInflate s = .err e t) (hin : t.inputs = s.inputs) (hst : t.status = s.status) :
    Reaches (ErrorTaken e s) (step s) :=
  ⟨_, step_err (((fetch_engineTurn hturn).trans (nextAction_inflate hph)).trans h), errorTaken_takeError e hin hst⟩

/-! ## Where the stream ends (42_deflate.md R162) -/

/-- A block header cut short. -/
theorem readBlockHeader_short {s : State} (hz : s.zInside) (h : 8 * s.zLen < s.bitPos + 3) :
    ∃ m f, readBlockHeader s = .err .trunc { s with bitPos := m, bfinal := f } := by
  by_cases hb : 8 * s.zLen ≤ s.bitPos
  · exact ⟨s.bitPos, s.bfinal, by rw [readBlockHeader, getbit_end hb, Res.andThen_err]⟩
  · obtain ⟨m, hm⟩ := getbits_short (n := 2) (s := { s with bitPos := s.bitPos + 1, bfinal := s.zBit s.bitPos }) hz
      (by decide) (by dsimp only; omega)
    exact ⟨m, s.zBit s.bitPos, by rw [readBlockHeader, getbit_inside hz (by omega), Res.andThen_ok, hm, Res.andThen_err]⟩

/-- `lens` are the lengths of the code that the next symbol is read in (42_deflate.md R175, R178, R180). -/
def State.CodeInForce (s : State) (lens : List Nat) : Prop :=
  s.sub = .codeLens ∧ lens = s.clLen ∨ s.sub = .litlen ∧ lens = s.llLen ∨ s.sub = .dist ∧ lens = s.dLen

/-- A symbol of the code in force that cannot be read raises. -/
theorem step_symbol_raises {s : State} {lens : List Nat} {e : ErrCode} {m : Nat} (hturn : s.engineTurn = true)
    (hph : s.phase = .inflate) (hcode : s.CodeInForce lens) (h : readSymbol lens s = .err e { s with bitPos := m }) :
    Reaches (ErrorTaken e s) (step s) := by
  have hfetch : fetchInflate s = .err e { s with bitPos := m } := by
    obtain ⟨hsub, rfl⟩ | ⟨hsub, rfl⟩ | ⟨hsub, rfl⟩ := hcode
    all_goals simp only [fetchInflate, hsub, h, Res.andThen_err]
  exact step_inflate_raises hturn hph hfetch rfl rfl

/-- An operation that begins with extra bits the stream does not hold. -/
theorem getbits_short_raises {s : State} {n : Nat} {k : Nat → State → Res Unit} (hz : s.zInside) (hn : 0 < n)
    (h : 8 * s.zLen < s.bitPos + n) : Reaches (ErrorTaken .trunc s) ((getbits n s).andThen k).toOutcome := by
  obtain ⟨m, hm⟩ := getbits_short hz hn h
  rw [hm, Res.andThen_err]
  exact raises_of_err rfl rfl rfl

/-- The four code-length symbols: what each appends, how often, and the extra bits it reads (30_encoding.md R104). -/
theorem clAppends_cases {i : Instr} {v r k : Nat} {s : State} (ha : s.clAppends i = some (v, r, k)) :
    (i = .cl0to15 v ∧ r = 1 ∧ k = 0) ∨
      (i = .cl16 ∧ s.lens.getLast? = some v ∧ r = 3 + s.zField s.bitPos 2 ∧ k = 2) ∨
      (i = .cl17 ∧ r = 3 + s.zField s.bitPos 3 ∧ k = 3) ∨ (i = .cl18 ∧ r = 11 + s.zField s.bitPos 7 ∧ k = 7) := by
  unfold State.clAppends at ha
  split at ha <;> simp only [Option.map_eq_some_iff, Option.some.injEq, Prod.mk.injEq, reduceCtorEq] at ha
  case h_1 =>
    obtain ⟨rfl, rfl, rfl⟩ := ha
    exact .inl ⟨rfl, rfl, rfl⟩
  case h_2 =>
    obtain ⟨w, hlast, rfl, rfl, rfl⟩ := ha
    exact .inr (.inl ⟨rfl, hlast, rfl, rfl⟩)
  case h_3 =>
    obtain ⟨-, rfl, rfl⟩ := ha
    exact .inr (.inr (.inl ⟨rfl, rfl, rfl⟩))
  case h_4 =>
    obtain ⟨-, rfl, rfl⟩ := ha
    exact .inr (.inr (.inr ⟨rfl, rfl, rfl⟩))

/-- A code-length symbol with extra bits begins with them. -/
theorem exec_clAppends_getbits {i : Instr} {v r k : Nat} {s : State} (ha : s.clAppends i = some (v, r, k))
    (hk : 0 < k) : ∃ f, exec i s = ((getbits k s).andThen f).toOutcome := by
  obtain ⟨-, -, rfl⟩ | ⟨rfl, hlast, -, rfl⟩ | ⟨rfl, -, rfl⟩ | ⟨rfl, -, rfl⟩ := clAppends_cases ha
  · exact absurd hk (Nat.lt_irrefl 0)
  · exact ⟨fun e t => repeatLens v (3 + e) t, by simp only [exec, execCl16, hlast]⟩
  · exact ⟨_, rfl⟩
  · exact ⟨_, rfl⟩

/-- The counts of a dynamic block cut short (42_deflate.md R173). -/
theorem dynamicBlock_countsShort {s : State} (hz : s.zInside) (h : 8 * s.zLen < s.bitPos + 14) :
    ∃ m, dynamicBlock s = .err .trunc { s with bitPos := m } := by
  by_cases h5 : 8 * s.zLen < s.bitPos + 5
  · obtain ⟨m, hm⟩ := getbits_short hz (by decide) h5
    exact ⟨m, by rw [dynamicBlock, hm, Res.andThen_err]⟩
  rw [dynamicBlock, getbits_inside hz (Nat.not_lt.1 h5), Res.andThen_ok]
  by_cases h10 : 8 * s.zLen < s.bitPos + 5 + 5
  · obtain ⟨m, hm⟩ := getbits_short (s := { s with bitPos := s.bitPos + 5 }) hz (by decide) h10
    exact ⟨m, by rw [hm, Res.andThen_err]⟩
  · obtain ⟨m, hm⟩ := getbits_short (n := 4) (s := { s with bitPos := s.bitPos + 5 + 5 }) hz (by decide) h
    exact ⟨m, by
      rw [getbits_inside (s := { s with bitPos := s.bitPos + 5 }) hz (Nat.not_lt.1 h10), Res.andThen_ok, hm,
        Res.andThen_err]⟩

/-! ## Literals and the end of a block (42_deflate.md R178, R182) -/

theorem exec_lit {b : Byte} {s : State} (h : s.rawPos < s.cfg.rawCap) : exec (.lit b) s = .next (s.emitted b) := by
  simp only [exec, execLit, emit_emitted h, Res.andThen_ok, Res.toOutcome]

theorem endBlock_final {s : State} (h : s.bfinal = 1) : endBlock s = .err .trunc s := if_pos h

theorem endBlock_more {s : State} (h : s.bfinal ≠ 1) : endBlock s = .ok () { s with sub := .header } := if_neg h

/-! ## The fixed codes (42_deflate.md R168) -/

theorem fixedLitlenLens_eq_map :
    fixedLitlenLens =
      (List.range 288).map fun k => if k < 144 then 8 else if k < 256 then 9 else if k < 280 then 7 else 8 := by
  have hlen : fixedLitlenLens.length = 288 := by simp [-List.reduceReplicate, fixedLitlenLens]
  refine List.ext_getElem (by simp [hlen]) fun k h1 h2 => ?_
  rw [← List.getD_eq_getElem fixedLitlenLens 0 h1, fixedLitlenLens_getD (hlen ▸ h1), List.getElem_map,
    List.getElem_range]

theorem kraft_append (xs ys : List Nat) : kraft (xs ++ ys) = kraft xs + kraft ys := by simp [kraft]

theorem kraft_replicate {l : Nat} (n : Nat) (hl : l ≠ 0) : kraft (List.replicate n l) = n * 2 ^ (15 - l) := by
  simp [-List.reduceReplicate, kraft, hl]

/-- The fixed codes are complete: they use every codeword. -/
theorem kraft_fixed : kraft fixedLitlenLens = 2 ^ 15 ∧ kraft fixedDistLens = 2 ^ 15 := by
  simp [-List.reduceReplicate, fixedLitlenLens, fixedDistLens, kraft_append, kraft_replicate]

/-- A complete set of code lengths passes the test (42_deflate.md R172). -/
theorem codeLengthsOk_of_complete {isCl : Bool} {lens : List Nat} (h : kraft lens = 2 ^ 15) :
    codeLengthsOk isCl lens = true :=
  codeLengthsOk_iff.2 ⟨h.le, .inl h⟩

/-! ## The tables of a dynamic block (42_deflate.md R176) -/

/-- Every code-length symbol appends at least one length. -/
theorem clAppends_pos {i : Instr} {v r k : Nat} {s : State} (ha : s.clAppends i = some (v, r, k)) : 0 < r := by
  obtain ⟨-, rfl, -⟩ | ⟨-, -, rfl, -⟩ | ⟨-, rfl, -⟩ | ⟨-, rfl, -⟩ := clAppends_cases ha
  all_goals omega

/-- A repeat that completes the sequence of code lengths builds the tables. -/
theorem repeatLens_last {v r : Nat} {s : State} (h : s.lens.length + r = s.nlen + s.ndist) :
    repeatLens v r s = buildTables { s with lens := s.lens ++ List.replicate r v } :=
  (if_neg (by omega)).trans (appendLens_last h.ge)

/-- `LL_LEN` of a complete sequence of code lengths: its first `nlen`, filled up with zeros. -/
def State.litlenPart (s : State) : List Nat := s.lens.take s.nlen ++ List.replicate (288 - s.nlen) 0

/-- `D_LEN` of a complete sequence of code lengths: the others, filled up with zeros. -/
def State.distPart (s : State) : List Nat := s.lens.drop s.nlen ++ List.replicate (32 - s.ndist) 0

/-- Symbol 256 has a code, and both sets of lengths pass the test. -/
def State.TablesValid (s : State) : Prop :=
  s.lens.getD 256 0 ≠ 0 ∧ codeLengthsOk false s.litlenPart = true ∧ codeLengthsOk false s.distPart = true

/-- Of a complete sequence, what comes after the first `nlen` lengths is `ndist` long. -/
theorem distPart_eq {s : State} (h : s.lens.length = s.nlen + s.ndist) :
    (s.lens.drop s.nlen).take s.ndist ++ List.replicate (32 - s.ndist) 0 = s.distPart := by
  rw [State.distPart, List.take_of_length_le (by rw [List.length_drop]; omega)]

theorem buildTables_valid {s : State} (hlen : s.lens.length = s.nlen + s.ndist) (h : s.TablesValid) :
    buildTables s = .ok () { s with llLen := s.litlenPart, dLen := s.distPart, sub := .litlen } := by
  obtain ⟨h256, hll, hd⟩ := h
  rw [buildTables, if_neg h256, distPart_eq hlen]
  exact (if_pos hll).trans (if_pos hd)

theorem buildTables_invalid {s : State} (hlen : s.lens.length = s.nlen + s.ndist) (h : ¬ s.TablesValid) :
    ∃ t, buildTables s = .err .stream t ∧ t.inputs = s.inputs ∧ t.status = s.status := by
  have hsat := buildTables_sat s
  revert hsat
  cases buildTables s with
  | ok a t =>
    rintro ⟨-, hll, hd, h256, hokll, hokd⟩
    rw [hll] at hokll
    rw [hd, distPart_eq hlen] at hokd
    exact absurd ⟨h256, hokll, hokd⟩ h
  | err e t =>
    rintro ⟨rfl, rfl | rfl⟩
    · exact ⟨_, rfl, rfl, rfl⟩
    · exact ⟨_, rfl, rfl, rfl⟩
  | fault f => exact False.elim
  | refuse x => exact False.elim

end Sys2Proof.Machine

namespace Sys2Proof.Proofs
open Sys2Proof.Machine

/-- Settles O28: `getbit` raises at the end of the stream, and each of these elements reads its bits by it. -/
theorem streamExhausted : Obligations.StreamExhausted := by
  refine ⟨?header, ?symbol, ?codeword, ?extra, ?clExtra, ?counts⟩
  case header =>
    intro s hturn hph hsub hz hend
    obtain ⟨m, f, hm⟩ := readBlockHeader_short hz hend
    have hfetch : fetchInflate s = .err .trunc { s with bitPos := m, bfinal := f } := by
      rw [fetchInflate_header hsub, hm, Res.andThen_err]
    exact step_inflate_raises hturn hph hfetch rfl rfl
  case symbol =>
    intro s lens hturn hph hcode hused hend
    exact step_symbol_raises hturn hph hcode (m := s.bitPos) (readSymbol_end hused hend)
  case codeword =>
    intro s lens sym left hturn hph hcode h15 hk hz hend hleft hbits
    exact step_symbol_raises hturn hph hcode (readSymbol_cutShort h15 hk hz hend hleft hbits)
  case extra =>
    rintro ⟨i, v, extra, base⟩ hrow s hz hextra hend
    obtain hrow | hrow := List.mem_append.1 hrow
    · rw [exec_lengthRow hrow]
      exact getbits_short_raises hz hextra hend
    · rw [exec_distanceRow hrow]
      exact getbits_short_raises hz hextra hend
  case clExtra =>
    intro i v r k s ha hz hk hend
    obtain ⟨f, hf⟩ := exec_clAppends_getbits ha hk
    rw [hf]
    exact getbits_short_raises hz hk hend
  case counts =>
    intro s hz hend
    obtain ⟨m, hm⟩ := dynamicBlock_countsShort hz hend
    exact raises_of_err hm rfl rfl

/-- Settles O29: without a symbol there is no loop; the only symbol's codeword is the bit 0. -/
theorem unusableCode : Obligations.UnusableCode := by
  refine fun s lens hturn hph hcode => ⟨fun hzero => ?_, fun k h1 h0 hz hend hbit => ?_⟩
  · exact step_symbol_raises hturn hph hcode (m := s.bitPos) (readSymbol_unused hzero s)
  · have honly : OnlySymbol lens k := ⟨h1, h0⟩
    exact step_symbol_raises hturn hph hcode (honly.readSymbol_one hz hend hbit)

/-- Settles O39: the symbol is the repeat that completes the sequence, and the tables are built from it. -/
theorem tablesBuilt : Obligations.TablesBuilt := by
  intro i v r k s full ll d ha hbits hlen hfull hll hd
  have hpos := clAppends_pos ha
  rw [exec_clAppends ha (by omega) hbits, repeatLens_last (s := { s with bitPos := s.bitPos + k }) hlen, ← hfull]
  have hcomplete : full.length = s.nlen + s.ndist := by
    rw [hfull, List.length_append, List.length_replicate, hlen]
  have hvalid : State.TablesValid { s with bitPos := s.bitPos + k, lens := full } ↔
      full.getD 256 0 ≠ 0 ∧ codeLengthsOk false ll = true ∧ codeLengthsOk false d = true := by
    rw [hll, hd]
    exact Iff.rfl
  refine ⟨fun hbad => ?_, fun h256 hokll hokd => ?_⟩
  · have hnot : ¬ State.TablesValid { s with bitPos := s.bitPos + k, lens := full } := by
      rw [hvalid]
      rintro ⟨h256, hokll, hokd⟩
      rcases hbad with h | h | h
      · exact h256 h
      · exact Bool.false_ne_true (h.symm.trans hokll)
      · exact Bool.false_ne_true (h.symm.trans hokd)
    obtain ⟨t, ht, hin, hst⟩ := buildTables_invalid hcomplete hnot
    exact raises_of_err ht hin hst
  · rw [buildTables_valid hcomplete (hvalid.2 ⟨h256, hokll, hokd⟩), hll, hd]
    exact ⟨_, rfl, rfl, fun _ _ => rfl⟩

/-- Settles O30: the state after `emit`, which writes one byte of `RAW`. -/
theorem emitLiteral : Obligations.EmitLiteral := fun b s h =>
  ⟨s.emitted b, exec_lit h, emitted_byteAt_same s b, fun _ _ hca => emitted_byteAt_other (hca.imp_right (by omega)), rfl⟩

/-- Settles O31: `BFINAL` decides whether the end of a block is the end of the stream. -/
theorem endOfBlock : Obligations.EndOfBlock := fun _ =>
  ⟨fun h => raises_of_err (endBlock_final h) rfl rfl,
    fun h => ⟨_, congrArg Res.toOutcome (endBlock_more h), rfl, fun _ _ => rfl⟩⟩

/-- Settles O36: the two tables written out; each has Kraft sum `2 ^ 15`. -/
theorem fixedBlock : Obligations.FixedBlock := by
  obtain ⟨hll, hd⟩ := kraft_fixed
  refine ⟨fun s => ⟨_, rfl, ?_, fun _ _ => rfl⟩, codeLengthsOk_of_complete hll, codeLengthsOk_of_complete hd⟩
  rw [← fixedLitlenLens_eq_map, show (List.range 32).map (fun _ => 5) = fixedDistLens from rfl]

end Sys2Proof.Proofs
end

section
/-! SUPPORT. The exact outcomes of a dynamic block's header (42_deflate.md R173, R174) and of a stored block (R167); then
the statements on blocks. -/

namespace Sys2Proof.Machine

/-! ## The lengths of the code-length code (42_deflate.md R174; 30_encoding.md R105) -/

/-- States with the same stream have the same fields of it. -/
theorem zField_of_zBit {s t : State} (h : ∀ k, t.zBit k = s.zBit k) (k n : Nat) : t.zField k n = s.zField k n := by
  induction n generalizing k with
  | zero => rfl
  | succ n ih => rw [State.zField, State.zField, h, ih]

/-- The three-bit lengths of the symbols `cs`, in this order, from the cursor on; the other symbols' as they were. -/
theorem readClLens_inside {cs : List Nat} {s : State} (hnd : cs.Nodup) (hz : s.zInside)
    (hend : s.bitPos + 3 * cs.length ≤ 8 * s.zLen) :
    ∃ cl, readClLens cs s = .ok () { s with bitPos := s.bitPos + 3 * cs.length, clLen := cl } ∧
      cl.length = s.clLen.length ∧
      ∀ sym < s.clLen.length, cl.getD sym 0 =
        if sym ∈ cs then s.zField (s.bitPos + 3 * cs.idxOf sym) 3 else s.clLen.getD sym 0 := by
  induction cs generalizing s with
  | nil => exact ⟨s.clLen, rfl, rfl, fun _ _ => rfl⟩
  | cons c cs ih =>
    obtain ⟨hc, hnd⟩ := List.nodup_cons.1 hnd
    rw [List.length_cons] at hend ⊢
    obtain ⟨cl, hread, hlen, hget⟩ := ih
      (s := { s with bitPos := s.bitPos + 3, clLen := s.clLen.set c (s.zField s.bitPos 3) }) hnd hz
      (by dsimp only; omega)
    refine ⟨cl, ?_, hlen.trans List.length_set, fun sym hsym => ?_⟩
    · rw [readClLens, getbits_inside hz (by omega), Res.andThen_ok]
      refine hread.trans ?_
      rw [Nat.add_assoc, show 3 + 3 * cs.length = 3 * (cs.length + 1) by omega]
    · have hrest := hget sym (by simpa using hsym)
      have hfield : ∀ k n, State.zField
          { s with bitPos := s.bitPos + 3, clLen := s.clLen.set c (s.zField s.bitPos 3) } k n = s.zField k n :=
        zField_of_zBit fun _ => rfl
      by_cases hs : sym = c
      · subst hs
        simpa [hc, hsym] using hrest
      · rw [hrest, List.idxOf_cons_ne _ (Ne.symm hs)]
        simp [hs, Ne.symm hs, hfield, Nat.add_assoc, Nat.mul_add, Nat.add_comm 3]

/-- The lengths of the symbols `cs` cut short. -/
theorem readClLens_short {cs : List Nat} {s : State} (hz : s.zInside) (hlo : s.bitPos ≤ 8 * s.zLen)
    (hend : 8 * s.zLen < s.bitPos + 3 * cs.length) :
    ∃ m cl, readClLens cs s = .err .trunc { s with bitPos := m, clLen := cl } := by
  induction cs generalizing s with
  | nil => exact absurd hend (Nat.not_lt.2 hlo)
  | cons c cs ih =>
    rw [List.length_cons] at hend
    by_cases h3 : 8 * s.zLen < s.bitPos + 3
    · obtain ⟨m, hm⟩ := getbits_short hz (by decide) h3
      exact ⟨m, s.clLen, by rw [readClLens, hm, Res.andThen_err]⟩
    · obtain ⟨m, cl, hread⟩ := ih
        (s := { s with bitPos := s.bitPos + 3, clLen := s.clLen.set c (s.zField s.bitPos 3) }) hz
        (by dsimp only; omega) (by dsimp only; omega)
      exact ⟨m, cl, by rw [readClLens, getbits_inside hz (by omega), Res.andThen_ok]; exact hread⟩

/-- The code-length code lengths of a dynamic block whose `n` lengths, in their transmission order, start at bit `k`. -/
def State.clTable (s : State) (k n : Nat) : List Nat :=
  (List.range 19).map fun sym =>
    if clOrder.idxOf sym < n then s.zField (k + 3 * clOrder.idxOf sym) 3 else 0

theorem nodup_clOrder : clOrder.Nodup := by decide

theorem mem_clOrder {sym : Nat} (h : sym < 19) : sym ∈ clOrder := by
  have hall : ∀ k < 19, k ∈ clOrder := by decide
  exact hall sym h

/-- The place of a symbol among the first `n` of the transmission order. -/
theorem idxOf_take_clOrder {sym n : Nat} (h : sym ∈ clOrder.take n) :
    (clOrder.take n).idxOf sym = clOrder.idxOf sym := by
  conv_rhs => rw [← List.take_append_drop n clOrder]
  exact (List.idxOf_append_of_mem h).symm

/-- All the lengths of the code-length code, from the stream of `u`. -/
theorem readClLens_clTable {s u : State} {n : Nat} (hstream : ∀ k, s.zBit k = u.zBit k) (hn : n ≤ 19)
    (hz : s.zInside) (hend : s.bitPos + 3 * n ≤ 8 * s.zLen) (hclear : s.clLen = List.replicate 19 0) :
    readClLens (clOrder.take n) s =
      .ok () { s with bitPos := s.bitPos + 3 * n, clLen := u.clTable s.bitPos n } := by
  have hlen : (clOrder.take n).length = n := List.length_take_of_le hn
  obtain ⟨cl, hread, hcl, hget⟩ := readClLens_inside (s := s) ((List.take_sublist n clOrder).nodup nodup_clOrder) hz
    (by rwa [hlen])
  have hclLen : s.clLen.length = 19 := by rw [hclear, List.length_replicate]
  have htable : cl = u.clTable s.bitPos n := by
    refine List.ext_getElem (by rw [hcl, hclLen, State.clTable, List.length_map, List.length_range]) fun sym h1 _ => ?_
    have hsym : sym < 19 := by omega
    rw [← List.getD_eq_getElem cl 0 h1, hget sym (by omega), hclear, zField_of_zBit hstream]
    simp only [State.clTable, List.getElem_map, List.getElem_range, List.mem_take_iff_idxOf_lt (mem_clOrder hsym)]
    split
    · rw [idxOf_take_clOrder ((List.mem_take_iff_idxOf_lt (mem_clOrder hsym)).2 ‹_›)]
    · exact List.getD_replicate _ hsym
  rw [hread, hlen, htable]

/-! ## The header of a dynamic block (42_deflate.md R173, R174) -/

/-- The state after the counts HLIT, HDIST and HCLEN. -/
def State.counted (s : State) : State :=
  { s with
    bitPos := s.bitPos + 14, nlen := s.zField s.bitPos 5 + 257, ndist := s.zField (s.bitPos + 5) 5 + 1 }

/-- How many lengths the code-length code has. -/
def State.clCount (s : State) : Nat := s.zField (s.bitPos + 10) 4 + 4

theorem clCount_le (s : State) : s.clCount ≤ 19 := by
  have := zField_lt s (s.bitPos + 10) 4
  unfold State.clCount
  omega

/-- A dynamic block whose counts the stream holds: the limits are tested, then the code-length code is read. -/
theorem dynamicBlock_counted {s : State} (hz : s.zInside) (h : s.bitPos + 14 ≤ 8 * s.zLen) :
    dynamicBlock s =
      if 286 < s.counted.nlen ∨ 30 < s.counted.ndist then .err .stream s.counted
      else
        (readClLens (clOrder.take s.clCount) { s.counted with clLen := List.replicate 19 0 }).andThen fun _ t =>
          if codeLengthsOk true t.clLen then .ok () { t with lens := [], sub := .codeLens } else .err .stream t := by
  have h2 := getbits_inside (n := 5) (s := { s with bitPos := s.bitPos + 5 }) hz (by dsimp only; omega)
  have h3 := getbits_inside (n := 4) (s := { s with bitPos := s.bitPos + 5 + 5 }) hz (by dsimp only; omega)
  rw [zField_bitPos] at h2 h3
  rw [dynamicBlock, getbits_inside hz (by omega), Res.andThen_ok, h2, Res.andThen_ok, h3, Res.andThen_ok]
  rfl

theorem dynamicBlock_beyond {s : State} (hz : s.zInside) (h : s.bitPos + 14 ≤ 8 * s.zLen)
    (hmany : 286 < s.counted.nlen ∨ 30 < s.counted.ndist) : dynamicBlock s = .err .stream s.counted := by
  rw [dynamicBlock_counted hz h, if_pos hmany]

/-- The lengths of the code-length code cut short. -/
theorem dynamicBlock_clShort {s : State} (hz : s.zInside) (h : s.bitPos + 14 ≤ 8 * s.zLen)
    (hfew : ¬ (286 < s.counted.nlen ∨ 30 < s.counted.ndist)) (hend : 8 * s.zLen < s.bitPos + 14 + 3 * s.clCount) :
    ∃ m cl, dynamicBlock s = .err .trunc { s.counted with bitPos := m, clLen := cl } := by
  obtain ⟨m, cl, hread⟩ := readClLens_short (cs := clOrder.take s.clCount)
    (s := { s.counted with clLen := List.replicate 19 0 }) hz h
    (by rw [List.length_take_of_le (clCount_le s)]; exact hend)
  exact ⟨m, cl, by rw [dynamicBlock_counted hz h, if_neg hfew, hread, Res.andThen_err]⟩

/-- The state after the lengths of the code-length code. -/
def State.clRead (s : State) : State :=
  { s.counted with bitPos := s.bitPos + 14 + 3 * s.clCount, clLen := s.clTable (s.bitPos + 14) s.clCount }

/-- A dynamic block whose header the stream holds: the test of the code-length code decides. -/
theorem dynamicBlock_clRead {s : State} (hz : s.zInside) (h : s.bitPos + 14 ≤ 8 * s.zLen)
    (hfew : ¬ (286 < s.counted.nlen ∨ 30 < s.counted.ndist)) (hend : s.bitPos + 14 + 3 * s.clCount ≤ 8 * s.zLen) :
    dynamicBlock s =
      if codeLengthsOk true s.clRead.clLen then .ok () { s.clRead with lens := [], sub := .codeLens }
      else .err .stream s.clRead := by
  have hread : readClLens (clOrder.take s.clCount) { s.counted with clLen := List.replicate 19 0 } = .ok () s.clRead :=
    readClLens_clTable (fun _ => rfl) (clCount_le s) hz hend rfl
  rw [dynamicBlock_counted hz h, if_neg hfew, hread, Res.andThen_ok]

/-! ## The bytes of a stored block (42_deflate.md R167) -/

/-- A byte of `RAW` written changes no byte of the stream. -/
theorem zByte_of_writesOnly {lo hi k : Nat} {s t : State} (hw : WritesOnly .raw lo hi s t)
    (hst : t.status = s.status) : t.zByte k = s.zByte k := by
  have hplace : t.zPlace k = s.zPlace k := by rw [State.zPlace, State.zPlace, State.isObf, hst, ← State.isObf]
  rw [State.zByte, hplace]
  refine hw _ _ (.inl ?_)
  unfold State.zPlace
  split
  · exact nofun
  · exact nofun

/-- From `s` to `t` the next `m` bytes of the stream have been appended to `RAW`, the cursors moved past them, and nothing
else has changed. -/
structure StoredBytes (s : State) (m : Nat) (t : State) : Prop where
  same : t = { s with raw := t.raw, rawPos := s.rawPos + m, bitPos := s.bitPos + 8 * m }
  bytes : ∀ j < m, t.byteAt .raw (s.rawPos + j) = s.zByte (s.bitPos / 8 + j)
  writes : WritesOnly .raw s.rawPos (s.rawPos + m) s t

theorem StoredBytes.refl (s : State) : StoredBytes s 0 s := ⟨rfl, nofun, fun _ _ _ => rfl⟩

/-- The state with the stream's next byte appended to `RAW`. -/
def State.storedByte (s : State) : State :=
  { s with
    raw := s.raw.put s.rawPos (s.zByte (s.bitPos / 8)), rawPos := s.rawPos + 1, bitPos := s.bitPos + 8 }

/-- One byte more of the block. -/
theorem StoredBytes.next {s t : State} {m : Nat} (h : StoredBytes s m t) : StoredBytes s (m + 1) t.storedByte := by
  obtain ⟨hsame, hbytes, hwrites⟩ := h
  have hz : t.zByte (t.bitPos / 8) = s.zByte (s.bitPos / 8 + m) := by
    rw [zByte_of_writesOnly hwrites (by rw [hsame]), show t.bitPos = s.bitPos + 8 * m by rw [hsame],
      Nat.add_mul_div_left _ _ (by decide)]
  have hpos : t.rawPos = s.rawPos + m := by rw [hsame]
  refine ⟨?_, fun j hj => ?_, fun c a hca => ?_⟩
  · rw [State.storedByte, hsame]
    rfl
  · obtain hlt | rfl : j < m ∨ j = m := by omega
    · exact (byteAt_setMem_put_other t .raw .raw t.rawPos _ _ (.inr (by omega))).trans (hbytes j hlt)
    · rw [← hz, ← hpos]
      exact byteAt_setMem_put_same t .raw t.rawPos _
  · exact (byteAt_setMem_put_other t .raw c t.rawPos a _ (hca.imp_right (by omega))).trans
      (hwrites c a (hca.imp_right (by omega)))

/-- One turn of the copy: the stop rule decides (42_deflate.md R164). -/
theorem storedCopy_turn {s : State} {left : Nat} (hz : s.zInside) (hin : s.bitPos / 8 < s.zLen)
    (hraw : s.rawPos < s.cfg.rawCap) :
    storedCopy (left + 1) s =
      if s.rawPos + 1 = s.n then .ok true { s.storedByte with bitPos := s.bitPos, phase := .repack }
      else storedCopy left s.storedByte := by
  rw [storedCopy, if_neg (Nat.not_le.2 hin), loadZ_inside hz hin, Res.andThen_ok, emit_inside hraw]
  split
  · rfl
  · rfl

/-- One turn of the copy with `m` bytes appended already. -/
theorem StoredBytes.turn {s t : State} {m left : Nat} (h : StoredBytes s m t) (hz : s.zInside)
    (hin : s.bitPos / 8 + m < s.zLen) (hraw : s.rawPos + m < s.cfg.rawCap) :
    storedCopy (left + 1) t =
      if s.rawPos + m + 1 = s.n then .ok true { t.storedByte with bitPos := t.bitPos, phase := .repack }
      else storedCopy left t.storedByte := by
  obtain ⟨raw, rfl⟩ : ∃ raw, t = { s with raw := raw, rawPos := s.rawPos + m, bitPos := s.bitPos + 8 * m } :=
    ⟨t.raw, h.same⟩
  exact storedCopy_turn hz (by dsimp only; omega) hraw

/-- The copy raises where the `m` bytes appended are the last of the stream. -/
theorem StoredBytes.turn_end {s t : State} {m left : Nat} (h : StoredBytes s m t)
    (hin : s.zLen ≤ s.bitPos / 8 + m) : storedCopy (left + 1) t = .err .trunc t := by
  obtain ⟨raw, rfl⟩ : ∃ raw, t = { s with raw := raw, rawPos := s.rawPos + m, bitPos := s.bitPos + 8 * m } :=
    ⟨t.raw, h.same⟩
  exact if_pos (by dsimp only; omega)

/-- The copy goes on over bytes that the stream holds, while one more is wanted. -/
theorem storedCopy_goesOn {s : State} {m : Nat} (left : Nat) (hz : s.zInside) (hin : s.bitPos / 8 + m ≤ s.zLen)
    (hwant : s.rawPos + m < s.n) (hn : s.n ≤ s.cfg.rawCap) :
    ∃ t, storedCopy (m + left) s = storedCopy left t ∧ StoredBytes s m t := by
  induction m generalizing left with
  | zero => exact ⟨s, by rw [Nat.zero_add], .refl s⟩
  | succ m ih =>
    obtain ⟨t, ht, hbytes⟩ := ih (left + 1) (by omega) (by omega)
    refine ⟨t.storedByte, ?_, hbytes.next⟩
    rw [Nat.add_assoc, Nat.add_comm 1, ht, hbytes.turn hz (by omega) (by omega), if_neg (by omega)]

/-- The block is copied to its end, with bytes still wanted. -/
theorem storedCopy_ends {s : State} {left : Nat} (hz : s.zInside) (hin : s.bitPos / 8 + left ≤ s.zLen)
    (hwant : s.rawPos + left < s.n) (hn : s.n ≤ s.cfg.rawCap) :
    ∃ t, storedCopy left s = .ok false t ∧ StoredBytes s left t :=
  storedCopy_goesOn 0 hz hin hwant hn

/-- The last byte wanted is in the block: the copy stops with the bit cursor at that byte (42_deflate.md R164). -/
theorem storedCopy_stops {s : State} {left : Nat} (hz : s.zInside) (hlt : s.rawPos < s.n) (hn : s.n ≤ s.cfg.rawCap)
    (hleft : s.n - s.rawPos ≤ left) (hin : s.bitPos / 8 + (s.n - s.rawPos) ≤ s.zLen) :
    ∃ t, storedCopy left s = .ok true { t with bitPos := t.bitPos - 8, phase := .repack } ∧
      StoredBytes s (s.n - s.rawPos) t := by
  obtain ⟨m, hm⟩ : ∃ m, s.n - s.rawPos = m + 1 := ⟨s.n - s.rawPos - 1, by omega⟩
  obtain ⟨k, rfl⟩ : ∃ k, left = m + (k + 1) := ⟨left - (m + 1), by omega⟩
  obtain ⟨t, ht, hbytes⟩ := storedCopy_goesOn (m := m) (k + 1) hz (by omega) (by omega) hn
  refine ⟨t.storedByte, ?_, hm ▸ hbytes.next⟩
  rw [ht, hbytes.turn hz (by omega) (by omega), if_pos (by omega)]
  rfl

/-- The stream ends before the block and before the last byte wanted (42_deflate.md R162). -/
theorem storedCopy_short {s : State} {left : Nat} (hz : s.zInside) (hn : s.n ≤ s.cfg.rawCap)
    (hlo : s.bitPos / 8 ≤ s.zLen) (hend : s.zLen < s.bitPos / 8 + min left (s.n - s.rawPos)) :
    ∃ m t, storedCopy left s = .err .trunc t ∧ StoredBytes s m t := by
  obtain ⟨m, hm⟩ : ∃ m, s.zLen = s.bitPos / 8 + m := ⟨s.zLen - s.bitPos / 8, by omega⟩
  obtain ⟨k, rfl⟩ : ∃ k, left = m + (k + 1) := ⟨left - (m + 1), by omega⟩
  obtain ⟨t, ht, hbytes⟩ := storedCopy_goesOn (m := m) (k + 1) hz (by omega) (by omega) hn
  exact ⟨m, t, ht.trans (hbytes.turn_end (by omega)), hbytes⟩

theorem StoredBytes.inputs {s t : State} {m : Nat} (h : StoredBytes s m t) : t.inputs = s.inputs :=
  (congrArg State.inputs h.same).trans rfl

theorem StoredBytes.status {s t : State} {m : Nat} (h : StoredBytes s m t) : t.status = s.status := by rw [h.same]

/-! ## Stored blocks (42_deflate.md R167) -/

/-- The state with the bit cursor at the start of byte `k` of the stream. -/
def State.atByte (s : State) (k : Nat) : State := { s with bitPos := 8 * k }

@[simp] theorem atByte_byte (s : State) (k : Nat) : (s.atByte k).bitPos / 8 = k :=
  Nat.mul_div_cancel_left k (by decide)

/-- The bytes appended are those of the stream from byte `k` on. -/
theorem StoredBytes.bytes_atByte {s t : State} {k m j : Nat} (h : StoredBytes (s.atByte k) m t) (hj : j < m) :
    t.byteAt .raw (s.rawPos + j) = s.zByte (k + j) := by
  have hbyte := h.bytes j hj
  rw [atByte_byte] at hbyte
  exact hbyte

section
variable {s : State} {a : Nat}

/-- The length fields are cut short. -/
theorem storedBlock_lengthsShort (ha : a = (s.bitPos + 7) / 8) (h : s.zLen < a + 4) :
    storedBlock s = .err .trunc (s.atByte a) := by
  subst ha
  exact if_pos (by rw [Nat.mul_div_cancel_left _ (by decide)]; exact h)

/-- The two length fields are in the stream: the complement is tested, then the bytes are copied. -/
theorem storedBlock_lengths (hz : s.zInside) (ha : a = (s.bitPos + 7) / 8) (h : a + 4 ≤ s.zLen) :
    storedBlock s =
      if s.zLe16 (a + 2) ≠ s.zLe16 a ^^^ 0xFFFF then .err .stream (s.atByte a)
      else
        (storedCopy (s.zLe16 a) (s.atByte (a + 4))).andThen fun stop t => if stop then .ok () t else endBlock t := by
  subst ha
  have hlen := readZ_two (a := (s.bitPos + 7) / 8) (s := { s with bitPos := 8 * ((s.bitPos + 7) / 8) }) hz
    (by dsimp only; omega)
  have hnlen := readZ_two (a := (s.bitPos + 7) / 8 + 2) (s := { s with bitPos := 8 * ((s.bitPos + 7) / 8) }) hz
    (by dsimp only; omega)
  simp only [storedBlock, Nat.mul_div_cancel_left _ (show 0 < 8 by decide), if_neg (Nat.not_lt.2 h), hlen, hnlen,
    Res.andThen_ok]
  rfl

theorem storedBlock_complement (hz : s.zInside) (ha : a = (s.bitPos + 7) / 8) (h : a + 4 ≤ s.zLen)
    (hne : s.zLe16 (a + 2) ≠ s.zLe16 a ^^^ 0xFFFF) : storedBlock s = .err .stream (s.atByte a) := by
  rw [storedBlock_lengths hz ha h, if_pos hne]

theorem storedBlock_agreed (hz : s.zInside) (ha : a = (s.bitPos + 7) / 8) (h : a + 4 ≤ s.zLen)
    (heq : s.zLe16 (a + 2) = s.zLe16 a ^^^ 0xFFFF) :
    storedBlock s =
      (storedCopy (s.zLe16 a) (s.atByte (a + 4))).andThen fun stop t => if stop then .ok () t else endBlock t := by
  rw [storedBlock_lengths hz ha h, if_neg (not_not.2 heq)]

/-- The block reaches the wanted count. -/
theorem storedBlock_stops (hz : s.zInside) (ha : a = (s.bitPos + 7) / 8) (h : a + 4 + (s.n - s.rawPos) ≤ s.zLen)
    (heq : s.zLe16 (a + 2) = s.zLe16 a ^^^ 0xFFFF) (hlt : s.rawPos < s.n) (hn : s.n ≤ s.cfg.rawCap)
    (hlen : s.n - s.rawPos ≤ s.zLe16 a) :
    ∃ t, storedBlock s = .ok () { t with bitPos := t.bitPos - 8, phase := .repack } ∧
      StoredBytes (s.atByte (a + 4)) (s.n - s.rawPos) t := by
  obtain ⟨t, ht, hbytes⟩ := storedCopy_stops (s := s.atByte (a + 4)) hz hlt hn hlen (by rw [atByte_byte]; exact h)
  exact ⟨t, by rw [storedBlock_agreed hz ha (by omega) heq, ht, Res.andThen_ok, if_pos rfl], hbytes⟩

/-- The block ends before the wanted count. -/
theorem storedBlock_ends (hz : s.zInside) (ha : a = (s.bitPos + 7) / 8) (h : a + 4 + s.zLe16 a ≤ s.zLen)
    (heq : s.zLe16 (a + 2) = s.zLe16 a ^^^ 0xFFFF) (hn : s.n ≤ s.cfg.rawCap) (hlen : s.zLe16 a < s.n - s.rawPos) :
    ∃ t, storedBlock s = endBlock t ∧ StoredBytes (s.atByte (a + 4)) (s.zLe16 a) t := by
  obtain ⟨t, ht, hbytes⟩ := storedCopy_ends (s := s.atByte (a + 4)) hz (by rw [atByte_byte]; exact h)
    (Nat.add_lt_of_lt_sub' hlen) hn
  exact ⟨t, by rw [storedBlock_agreed hz ha (by omega) heq, ht, Res.andThen_ok, if_neg Bool.false_ne_true], hbytes⟩

/-- The stream ends before the block and before the wanted count. -/
theorem storedBlock_bytesShort (hz : s.zInside) (ha : a = (s.bitPos + 7) / 8) (h4 : a + 4 ≤ s.zLen)
    (heq : s.zLe16 (a + 2) = s.zLe16 a ^^^ 0xFFFF) (hn : s.n ≤ s.cfg.rawCap)
    (h : s.zLen < a + 4 + min (s.zLe16 a) (s.n - s.rawPos)) :
    ∃ m t, storedBlock s = .err .trunc t ∧ StoredBytes (s.atByte (a + 4)) m t := by
  obtain ⟨m, t, ht, hbytes⟩ := storedCopy_short (s := s.atByte (a + 4)) hz hn (by rw [atByte_byte]; exact h4)
    (by rw [atByte_byte]; exact h)
  exact ⟨m, t, by rw [storedBlock_agreed hz ha h4 heq, ht, Res.andThen_err], hbytes⟩

end

end Sys2Proof.Machine

namespace Sys2Proof.Proofs
open Sys2Proof.Machine

/-- Settles O37: the counts, their limits, the lengths of the code-length code and its test, in the order of the
stream. -/
theorem dynamicHeader : Obligations.DynamicHeader := by
  intro s hlit hdist ncl cl hz h14 hl hd hn hcl
  obtain rfl : ncl = s.clCount := hn
  have hcl : cl = s.clRead.clLen := hcl
  subst hl hd hcl
  have hfew (hll : s.zField s.bitPos 5 + 257 ≤ 286) (hdd : s.zField (s.bitPos + 5) 5 + 1 ≤ 30) :
      ¬ (286 < s.counted.nlen ∨ 30 < s.counted.ndist) := not_or.2 ⟨Nat.not_lt.2 hll, Nat.not_lt.2 hdd⟩
  refine ⟨fun hmany => ?_, fun hll hdd hend => ?_, fun hll hdd hend hbad => ?_, fun hll hdd hend hok => ?_⟩
  · exact raises_of_err (dynamicBlock_beyond hz h14 hmany) rfl rfl
  · obtain ⟨m, cl, hread⟩ := dynamicBlock_clShort hz h14 (hfew hll hdd) hend
    exact raises_of_err hread rfl rfl
  · have hread := dynamicBlock_clRead hz h14 (hfew hll hdd) hend
    rw [if_neg (by rw [hbad]; exact Bool.false_ne_true)] at hread
    exact raises_of_err hread rfl rfl
  · have hread := dynamicBlock_clRead hz h14 (hfew hll hdd) hend
    rw [if_pos hok] at hread
    exact ⟨_, congrArg Res.toOutcome hread, rfl, fun _ _ => rfl⟩

/-- Settles O34: the copy by induction on the bytes appended, up to the stop rule or to the end of the block. -/
theorem storedBlock : Obligations.StoredBlock := by
  intro s a len hz ha h4 hlen heq hlt hn
  subst hlen
  refine ⟨fun hreach hin => ?_, fun hless hin hmore => ?_⟩
  · obtain ⟨t, ht, hbytes⟩ := storedBlock_stops hz ha hin heq hlt hn hreach
    refine ⟨_, congrArg Res.toOutcome ht, fun j hj => hbytes.bytes_atByte hj, fun c b hcb => ?_, ?_⟩
    · exact hbytes.writes c b (hcb.imp_right (Or.imp_right fun h => (Nat.add_sub_of_le hlt.le).trans_le h))
    · have hcount : s.rawPos + (s.n - s.rawPos) = s.n := Nat.add_sub_of_le hlt.le
      have hcursor : 8 * (a + 4) + 8 * (s.n - s.rawPos) - 8 = 8 * (a + 4 + (s.n - s.rawPos) - 1) := by omega
      rw [hbytes.same]
      simp only [State.atByte, hcount, hcursor]
  · obtain ⟨t, ht, hbytes⟩ := storedBlock_ends hz ha hin heq hn hless
    have hmore : t.bfinal ≠ 1 := by rw [hbytes.same]; exact hmore
    rw [endBlock_more hmore] at ht
    refine ⟨_, congrArg Res.toOutcome ht, fun j hj => hbytes.bytes_atByte hj, hbytes.writes, ?_⟩
    rw [hbytes.same]
    simp only [State.atByte, Nat.mul_add]

/-- Settles O35: the tests of a stored block in their order, the end of the stream inside its bytes, and the end of the
final block. -/
theorem storedBlockRaises : Obligations.StoredBlockRaises := by
  refine ⟨fun s a len hz ha hlen => ?_, fun s => ⟨_, rfl, errorTaken_takeError .stream rfl rfl⟩⟩
  subst hlen
  refine ⟨fun hshort => ?_, fun h4 hne => ?_, fun h4 heq hlt hn hend => ?_, fun hin heq hless hn hfinal => ?_⟩
  · exact raises_of_err (storedBlock_lengthsShort ha hshort) rfl rfl
  · exact raises_of_err (storedBlock_complement hz ha h4 hne) rfl rfl
  · obtain ⟨m, t, ht, hbytes⟩ := storedBlock_bytesShort hz ha h4 heq hn hend
    exact raises_of_err ht hbytes.inputs hbytes.status
  · obtain ⟨t, ht, hbytes⟩ := storedBlock_ends hz ha hin heq hn hless
    have hfinal : t.bfinal = 1 := by rw [hbytes.same]; exact hfinal
    exact raises_of_err (ht.trans (endBlock_final hfinal)) hbytes.inputs hbytes.status

end Sys2Proof.Proofs
end

section
/-! SUPPORT. The exact outcomes of DISPATCH, by the effective format, the dimensions and the capacities
(43_pixel_formats.md R210 to R212, R220; 40_host_interface.md R126); then the statements on dispatch. -/

namespace Sys2Proof.Machine

/-! ## The effective format (43_pixel_formats.md R210) -/

theorem effectiveFmt_eq (s : State) : s.effectiveFmt = s.fmtPri.toNat + s.fmtSec.toNat % 256 := rfl

/-- In DISPATCH an effective format that no row names selects UNSUPPORTED (43_pixel_formats.md R220). -/
theorem step_dispatch_unsupported {s : State} (hturn : s.engineTurn = true) (hph : s.phase = .dispatch)
    (h : s.effectiveFmt ∉ formatCodes) : step s = .next (takeError .format { s with fmt := s.effectiveFmt }) :=
  step_of_select hturn (nextAction_dispatch hph) (decode_fmt_unsupported (effectiveFmt_lt s) h)

/-! ## Sizes, dimensions, capacities (43_pixel_formats.md R211, R212; 40_host_interface.md R126) -/

section
variable {s : State} {fmt : Nat}

theorem dispatchAs_dim (h : dimsFit fmt s.w s.h = false) :
    dispatchAs fmt s = .err .dim { s with n := rawSize fmt s.w s.h } :=
  if_neg (by rw [h]; exact Bool.false_ne_true)

theorem dispatchAs_cap (h : dimsFit fmt s.w s.h = true)
    (hcap : s.cfg.rawCap < rawSize fmt s.w s.h ∨ s.cfg.outCap < outSize fmt s.w s.h) :
    dispatchAs fmt s = .err .cap { s with n := rawSize fmt s.w s.h } :=
  (if_pos h).trans (if_pos hcap)

theorem dispatchAs_fits (h : dimsFit fmt s.w s.h = true) (hraw : rawSize fmt s.w s.h ≤ s.cfg.rawCap)
    (hout : outSize fmt s.w s.h ≤ s.cfg.outCap) :
    dispatchAs fmt s = .ok () { s with n := rawSize fmt s.w s.h, phase := .classify } :=
  (if_pos h).trans (if_neg (not_or.2 ⟨Nat.not_lt.2 hraw, Nat.not_lt.2 hout⟩))

theorem formatRow_dispatch (hph : s.phase = .dispatch) (repack : State → Res Unit) :
    formatRow fmt repack s = (dispatchAs fmt s).toOutcome := by
  simp only [formatRow, hph]

end

/-- The raw size of format 3 is two bytes for each tile (43_pixel_formats.md R211). -/
theorem rawSize_tile4444 (w h : Nat) : rawSize 3 w h = 2 * ((w + 3) / 4) * ((h + 3) / 4) := by
  have hbits : ceil4 w * 4 * ceil4 h * 4 = 2 * ceil4 w * ceil4 h * 8 := by ring
  calc rawSize 3 w h = 2 * ceil4 w * ceil4 h * 8 / 8 := congrArg (· / 8) hbits
    _ = 2 * ceil4 w * ceil4 h := Nat.mul_div_cancel _ (by decide)

/-- A format's line of 43_pixel_formats.md R211 and R212 says what its row tests in DISPATCH. -/
theorem formatSpec_sizes {f : FormatSpec} (hf : f ∈ formatSpecs) (w h : Nat) :
    f.raw w h = rawSize f.code w h ∧ f.fits w h = dimsFit f.code w h ∧ f.out w h = outSize f.code w h := by
  simp only [formatSpecs, List.mem_cons, List.not_mem_nil, or_false] at hf
  rcases hf with rfl | rfl | rfl | rfl | rfl | rfl | rfl
  case inr.inr.inl => exact ⟨(rawSize_tile4444 w h).symm, rfl, rfl⟩
  all_goals exact ⟨rfl, rfl, rfl⟩

/-- In DISPATCH the row of a supported format dispatches its code (30_encoding.md R108). -/
theorem exec_formatSpec {f : FormatSpec} (hf : f ∈ formatSpecs) {s : State} (hph : s.phase = .dispatch) :
    exec f.instr s = (dispatchAs f.code s).toOutcome := by
  simp only [formatSpecs, List.mem_cons, List.not_mem_nil, or_false] at hf
  rcases hf with rfl | rfl | rfl | rfl | rfl | rfl | rfl <;> exact formatRow_dispatch hph _

end Sys2Proof.Machine

namespace Sys2Proof.Proofs
open Sys2Proof.Machine

/-- Settles O22: the dispatch key is compared with the seven codes only; any other selects UNSUPPORTED, whose row
raises. -/
theorem unsupportedFormat : Obligations.UnsupportedFormat := by
  refine ⟨fun s hturn hph hnone => ?_, fun v s => ⟨_, rfl, errorTaken_takeError .format rfl rfl⟩⟩
  rw [← effectiveFmt_eq] at hnone
  exact ⟨_, step_dispatch_unsupported hturn hph hnone, errorTaken_takeError .format rfl rfl⟩

/-- Settles O23: the three ends of DISPATCH, the dimensions tested before the capacities. -/
theorem dispatchSizes : Obligations.DispatchSizes := by
  intro f hf s hph
  obtain ⟨hraw, hfits, hout⟩ := formatSpec_sizes hf s.w s.h
  rw [exec_formatSpec hf hph, hraw, hfits, hout]
  refine ⟨fun hdim => ?_, fun hdim hcap => ?_, fun hdim hrawCap houtCap => ?_⟩
  · exact raises_of_err (dispatchAs_dim hdim) rfl rfl
  · exact raises_of_err (dispatchAs_cap hdim hcap) rfl rfl
  · exact ⟨_, congrArg Res.toOutcome (dispatchAs_fits hdim hrawCap houtCap), rfl, fun _ _ => rfl⟩

end Sys2Proof.Proofs
end

section
/-! SUPPORT. What an operation draws into `OUT`: bytes of a picture, pixels, 4x4 blocks clipped at the image's edge
(43_pixel_formats.md R222; 20_memory.md R63), and how a drawn picture ends the decode (40_host_interface.md R128); then
the pictures of the formats without working tables (43_pixel_formats.md R213 to R217) and the statements on them. -/

namespace Sys2Proof.Machine

/-! ## Bytes of a picture -/

/-- From the contents `m` to `m'` of `OUT` the bytes at the indices in `W` become those of the picture `f`, and a byte
that was the picture's stays so. -/
structure Shown (f : Nat → Byte) (W : Nat → Prop) (m m' : Mem) : Prop where
  here : ∀ a, W a → m'.get? a = some (f a)
  kept : ∀ a, m.get? a = some (f a) → m'.get? a = some (f a)

section
variable {f : Nat → Byte} {W W' : Nat → Prop}

theorem Shown.nothing (m : Mem) : Shown f (fun _ => False) m m := ⟨fun _ h => h.elim, fun _ h => h⟩

theorem Shown.mono {m m' : Mem} (h : Shown f W m m') (hw : ∀ a, W' a → W a) : Shown f W' m m' :=
  ⟨fun a ha => h.here a (hw a ha), h.kept⟩

theorem Shown.trans {m m' m'' : Mem} (h : Shown f W m m') (h' : Shown f W' m' m'') :
    Shown f (fun a => W a ∨ W' a) m m'' :=
  ⟨fun a ha => ha.elim (fun hw => h'.kept a (h.here a hw)) (h'.here a), fun a ha => h'.kept a (h.kept a ha)⟩

theorem Shown.put {a : Nat} {v : Byte} (hv : v = f a) (m : Mem) : Shown f (· = a) m (m.put a v) := by
  have hsame : (m.put a v).get? a = some (f a) := hv ▸ Mem.get?_put_same m a v
  refine ⟨fun c hc => hc ▸ hsame, fun c hc => ?_⟩
  by_cases h : c = a
  · exact h ▸ hsame
  · rw [Mem.get?_put_other m a c v h]
    exact hc

/-- What the turns of a loop draw, the loop draws; `I` is what every turn keeps. -/
theorem forUp_shown {I : State → Prop} {W : Nat → Nat → Prop} {n : Nat} {body : Nat → State → Res Unit} {t : State}
    (h0 : I t)
    (hb : ∀ i u, i < n → I u →
      (body i u).Sat (fun _ v => I v ∧ Shown f (W i) u.out v.out) (fun _ _ => False) fun _ => False) :
    (forUp n 0 body t).Sat (fun _ v => I v ∧ Shown f (fun a => ∃ i < n, W i a) t.out v.out) (fun _ _ => False)
      fun _ => False := by
  refine (forUp_sat (fun k v => I v ∧ Shown f (fun a => ∃ i < k, W i a) t.out v.out) n 0 ⟨h0, ?_⟩ ?_).mono_ok ?_
  · exact (Shown.nothing _).mono fun a ⟨i, hi, _⟩ => Nat.not_lt_zero i hi
  · rintro k u - hk ⟨hI, hu⟩
    refine (hb k u (by omega) hI).mono_ok fun _ v ⟨hv, hdrawn⟩ => ⟨hv, (hu.trans hdrawn).mono ?_⟩
    rintro a ⟨i, hi, ha⟩
    rcases Nat.lt_succ_iff_lt_or_eq.1 hi with hlt | rfl
    · exact .inl ⟨i, hlt, ha⟩
    · exact .inr ha
  · rw [Nat.zero_add]
    exact fun _ _ h => h

/-! ## Operations that draw -/

/-- From `t` to `u` only `OUT` changes, below index `hi`. -/
structure OutOnly (hi : Nat) (t u : State) : Prop where
  painted : Painted hi t u
  same : u = { t with out := u.out }

theorem OutOnly.refl (hi : Nat) (t : State) : OutOnly hi t t := ⟨.refl hi t, rfl⟩

theorem OutOnly.trans {hi : Nat} {t u v : State} (h : OutOnly hi t u) (h' : OutOnly hi u v) : OutOnly hi t v := by
  refine ⟨h.painted.trans h'.painted, ?_⟩
  have htu := h.same
  have huv := h'.same
  rw [huv]
  dsimp only
  conv_lhs => rw [htu]

/-- From `t` the operation is complete, and has drawn the bytes of the picture `f` at the indices in `W`, all below
`hi`. -/
abbrev Draws (hi : Nat) (f : Nat → Byte) (W : Nat → Prop) (t : State) (r : Res Unit) : Prop :=
  r.Sat (fun _ u => OutOnly hi t u ∧ Shown f W t.out u.out) (fun _ _ => False) fun _ => False

variable {hi : Nat} {t : State}

theorem Draws.mono {r : Res Unit} (h : Draws hi f W t r) (hw : ∀ a, W' a → W a) : Draws hi f W' t r :=
  h.mono_ok fun _ _ ⟨hu, hs⟩ => ⟨hu, hs.mono hw⟩

theorem Draws.andThen {r : Res Unit} {k : Unit → State → Res Unit} (h : Draws hi f W t r)
    (hk : ∀ u, OutOnly hi t u → Draws hi f W' u (k () u)) : Draws hi f (fun a => W a ∨ W' a) t (r.andThen k) :=
  Res.Sat.andThen h fun _ u ⟨hu, hs⟩ => (hk u hu).mono_ok fun _ _ ⟨hv, hs'⟩ => ⟨hu.trans hv, hs.trans hs'⟩

theorem store_draws {a : Nat} {v : Byte} (hv : v = f a) (ha : a < hi) (hc : hi ≤ t.cfg.outCap) :
    Draws hi f (· = a) t (store .out a v t) := by
  have hp : Paints hi t (store .out a v t) := store_painted v (.refl hi t) ha hc
  rw [store_inside (b := .out) (show a < t.cfg.outCap by omega)] at hp ⊢
  exact ⟨⟨hp, rfl⟩, .put hv t.out⟩

theorem forUp_draws {W : Nat → Nat → Prop} {n : Nat} {body : Nat → State → Res Unit}
    (hb : ∀ i u, i < n → OutOnly hi t u → Draws hi f (W i) u (body i u)) :
    Draws hi f (fun a => ∃ i < n, W i a) t (forUp n 0 body t) :=
  forUp_shown (.refl hi t) fun i u hin hu =>
    (hb i u hin hu).mono_ok fun _ _ ⟨hv, hs⟩ => ⟨hu.trans hv, hs⟩

/-! ## Pixels (43_pixel_formats.md; 20_memory.md R63) -/

/-- The four bytes of one pixel, from index `i` on. -/
def storePixel (i : Nat) (b g r a : Byte) (s : State) : Res Unit :=
  (store .out i b s).andThen fun _ s1 =>
  (store .out (i + 1) g s1).andThen fun _ s2 =>
  (store .out (i + 2) r s2).andThen fun _ s3 =>
  store .out (i + 3) a s3

theorem put_eq_storePixel (x y : Nat) (b g r a : Byte) (s : State) :
    put x y b g r a s = storePixel ((y * s.w + x) * 4) b g r a s := rfl

theorem putGray_eq_storePixel (p : Nat) (v : Byte) (s : State) : putGray p v s = storePixel (4 * p) v v v 255 s := rfl

/-- The pixel of flat index `p` is drawn byte by byte. -/
theorem storePixel_draws {i p : Nat} {b g r a : Byte} (hip : i = 4 * p) (hb : b = f (4 * p)) (hg : g = f (4 * p + 1))
    (hr : r = f (4 * p + 2)) (ha : a = f (4 * p + 3)) (hp : 4 * p + 4 ≤ hi) (hc : hi ≤ t.cfg.outCap) :
    Draws hi f (fun c => c / 4 = p) t (storePixel i b g r a t) := by
  subst hip
  have hcap {u : State} (hu : OutOnly hi t u) : hi ≤ u.cfg.outCap := by rw [hu.painted.cfg]; exact hc
  refine Draws.mono (W := fun c => c = 4 * p ∨ c = 4 * p + 1 ∨ c = 4 * p + 2 ∨ c = 4 * p + 3) ?_ fun c hc => by omega
  refine Draws.andThen (store_draws hb (by omega) hc) fun u1 h1 => ?_
  refine Draws.andThen (store_draws hg (by omega) (hcap h1)) fun u2 h2 => ?_
  refine Draws.andThen (store_draws hr (by omega) (hcap (h1.trans h2))) fun u3 h3 => ?_
  exact store_draws ha (by omega) (hcap ((h1.trans h2).trans h3))

/-- The picture of width `w` in which the pixel at `(x, y)` has the bytes `colour x y`. -/
def picture (w : Nat) (colour : Nat → Nat → List Byte) (a : Nat) : Byte :=
  (colour (a / 4 % w) (a / 4 / w)).getD (a % 4) 0

theorem picture_at {w x c : Nat} (colour : Nat → Nat → List Byte) (y : Nat) (hx : x < w) (hc : c < 4) :
    picture w colour (4 * (y * w + x) + c) = (colour x y).getD c 0 := by
  have hw : 0 < w := by omega
  have hpixel : (4 * (y * w + x) + c) / 4 = w * y + x := by rw [mul_comm w]; omega
  have hchannel : (4 * (y * w + x) + c) % 4 = c := by omega
  have hcol : (w * y + x) % w = x := by rw [Nat.mul_add_mod, Nat.mod_eq_of_lt hx]
  have hrow : (w * y + x) / w = y := by rw [Nat.mul_add_div hw, Nat.div_eq_of_lt hx, Nat.add_zero]
  rw [picture, hpixel, hchannel, hcol, hrow]

/-- `put`, where the pixel is inside the image, draws it (43_pixel_formats.md R222). -/
theorem putClipped_draws {x y : Nat} {b g r a : Byte} {colour : Nat → Nat → List Byte}
    (hcol : x < t.w → y < t.h → colour x y = [b, g, r, a]) (hc : t.w * t.h * 4 ≤ t.cfg.outCap) :
    Draws (t.w * t.h * 4) (picture t.w colour) (fun c => x < t.w ∧ y < t.h ∧ c / 4 = y * t.w + x) t
      (putClipped x y b g r a t) := by
  unfold putClipped
  split
  · obtain ⟨hx, hy⟩ := ‹x < t.w ∧ y < t.h›
    have hin := tile_index hx hy
    rw [put_eq_storePixel]
    refine Draws.mono (W := fun c => c / 4 = y * t.w + x) (storePixel_draws (mul_comm _ _) ?_ ?_ ?_ ?_ (by omega) hc)
      fun _ h => h.2.2
    · rw [← Nat.add_zero (4 * _), picture_at colour y hx (by decide), hcol hx hy]; rfl
    all_goals rw [picture_at colour y hx (by decide), hcol hx hy]; rfl
  · exact ⟨.refl _ t, (Shown.nothing _).mono fun c ⟨hx, hy, _⟩ => absurd ⟨hx, hy⟩ ‹¬ (x < t.w ∧ y < t.h)›⟩

/-- The indices of the pixels of the 4x4 block `(col, row)` that are inside the image. -/
def InBlock (s : State) (col row a : Nat) : Prop :=
  ∃ j < 4, ∃ i < 4, 4 * col + i < s.w ∧ 4 * row + j < s.h ∧ a / 4 = (4 * row + j) * s.w + (4 * col + i)

/-- The 16 pixels of a block, clipped (43_pixel_formats.md R222, 44_dxt.md R251). -/
theorem block_draws {col row : Nat} {colour : Nat → Nat → List Byte} {body : Nat → Nat → State → Res Unit}
    (hbody : ∀ j i u, j < 4 → i < 4 → OutOnly (t.w * t.h * 4) t u → ∃ b g r a,
      body j i u = putClipped (4 * col + i) (4 * row + j) b g r a u ∧
        colour (4 * col + i) (4 * row + j) = [b, g, r, a])
    (hc : t.w * t.h * 4 ≤ t.cfg.outCap) :
    Draws (t.w * t.h * 4) (picture t.w colour) (InBlock t col row) t
      (forUp 4 0 (fun j => forUp 4 0 fun i => body j i) t) := by
  refine forUp_draws fun j u hj hu => forUp_draws fun i v hi hv => ?_
  obtain ⟨b, g, r, a, heq, hcol⟩ := hbody j i v hj hi (hu.trans hv)
  have hp := (hu.trans hv).painted
  have hdraws := putClipped_draws (t := v) (fun _ _ => hcol) (by rw [hp.w, hp.h, hp.cfg]; exact hc)
  rwa [hp.w, hp.h, ← heq] at hdraws

/-- The blocks cover the image. -/
theorem inBlock_cover {s : State} {a : Nat} (ha : a < s.w * s.h * 4) :
    ∃ row < ceil4 s.h, ∃ col < ceil4 s.w, InBlock s col row a := by
  have hp : a / 4 < s.w * s.h := by omega
  have hw : 0 < s.w := Nat.pos_of_ne_zero fun h => by rw [h, Nat.zero_mul] at hp; omega
  have hx : a / 4 % s.w < s.w := Nat.mod_lt _ hw
  have hy : a / 4 / s.w < s.h := Nat.div_lt_of_lt_mul hp
  have hflat : a / 4 / s.w * s.w + a / 4 % s.w = a / 4 := Nat.div_add_mod' _ _
  generalize a / 4 % s.w = x at hx hflat
  generalize a / 4 / s.w = y at hy hflat
  refine ⟨y / 4, by unfold ceil4; omega, x / 4, by unfold ceil4; omega, y % 4, by omega, x % 4, by omega, ?_⟩
  rw [Nat.div_add_mod, Nat.div_add_mod]
  exact ⟨hx, hy, hflat.symm⟩

/-! ## The end of REPACK (40_host_interface.md R128) -/

/-- From `s` the routine is complete, has written the bytes of the picture `f` below `size`, and nothing else but the
pixel tables. -/
abbrev Fills (size : Nat) (f : Nat → Byte) (s : State) (r : Res Unit) : Prop :=
  r.Sat (fun _ t => Painted size s t ∧ ∀ a < size, t.out.get? a = some (f a)) (fun _ _ => False) fun _ => False

theorem Draws.fills {r : Res Unit} (h : Draws hi f W t r) (hw : ∀ a < hi, W a) : Fills hi f t r :=
  h.mono_ok fun _ _ ⟨hu, hs⟩ => ⟨hu.painted, fun a ha => hs.here a (hw a ha)⟩

/-- The registers and variables that REPACK leaves (40_host_interface.md R128). -/
theorem Painted.finished {size : Nat} {s t : State} (h : Painted size s t) (fmt : Nat) :
    Finished (if fmt = 513 then 1 else 0) size s (finishDecode fmt size t) := by
  refine ⟨?_, fun a => ⟨byteAt_inB_of_inputs (t := finishDecode fmt size t) h.inputs a,
    byteAt_key_of_inputs (t := finishDecode fmt size t) h.inputs a⟩, h.beyond⟩
  rw [h.same]
  rfl

/-- In REPACK a format row whose routine fills the output finishes the decode. -/
theorem formatRow_finishes {fmt size : Nat} {s : State} {repack : State → Res Unit} (hph : s.phase = .repack)
    (hsize : outSize fmt s.w s.h = size) (h : Fills size f s (repack s)) :
    ∃ t, formatRow fmt repack s = .next t ∧ (∀ a < size, (t.mem .out).get? a = some (f a)) ∧
      Finished (if fmt = 513 then 1 else 0) size s t := by
  have hrow : formatRow fmt repack s =
      ((repack s).andThen fun _ t => .ok () (finishDecode fmt (outSize fmt s.w s.h) t)).toOutcome := by
    simp only [formatRow, hph]
  rw [hrow, hsize]
  revert h
  cases repack s with
  | ok _ t => exact fun ⟨hp, hf⟩ => ⟨_, rfl, hf, hp.finished fmt⟩
  | err e t => exact False.elim
  | fault x => exact False.elim
  | refuse x => exact False.elim

end

theorem byteAt_of_get? {s : State} {b : Buf} {a : Nat} {v : Byte} (h : (s.mem b).get? a = some v) :
    s.byteAt b a = v := by
  simp only [State.byteAt, h]

/-- After REPACK has drawn a picture, a pixel inside the image has its bytes. -/
theorem Finished.pixel {o : Word} {size : Nat} {s t : State} {colour : Nat → Nat → List Byte} {x y : Nat}
    {b g r a : Byte} (hfin : Finished o size s t)
    (h : ∀ c < s.w * s.h * 4, (t.mem .out).get? c = some (picture s.w colour c)) (hx : x < s.w) (hy : y < s.h)
    (hcol : colour x y = [b, g, r, a]) : t.pixel x y = [b, g, r, a] := by
  have hw : t.w = s.w := by rw [hfin.1]; rfl
  have hin := tile_index hx hy
  have hbyte {c : Nat} (hc : c < 4) : t.byteAt .out ((y * s.w + x) * 4 + c) = [b, g, r, a].getD c 0 := by
    rw [← hcol, ← picture_at colour y hx hc, mul_comm]
    exact byteAt_of_get? (h _ (by omega))
  calc t.pixel x y = (List.range 4).map fun c => t.byteAt .out ((y * s.w + x) * 4 + c) := by rw [State.pixel, hw]
    _ = (List.range 4).map fun c => [b, g, r, a].getD c 0 :=
        List.map_congr_left fun c hc => hbyte (List.mem_range.1 hc)
    _ = [b, g, r, a] := rfl

/-! ## Nibbles (00_scope.md R9) -/

theorem rep4_lo4 (b : Byte) : rep4 (lo4 b) = nibble (b.toNat % 16) := by
  have hrep : ∀ n < 16, rep4 n = nibble n := by decide
  exact hrep _ (Nat.mod_lt _ (by decide))

theorem rep4_hi4 (b : Byte) : rep4 (hi4 b) = nibble (b.toNat / 16) := by
  have hrep : ∀ n < 16, rep4 n = nibble n := by decide
  have hhi : hi4 b = b.toNat / 16 := by
    have hb := b.isLt
    rw [hi4, field, Nat.shiftRight_eq_div_pow, Nat.mod_eq_of_lt (by omega)]
  rw [hhi]
  exact hrep _ (by have hb := b.isLt; omega)

/-! ## The routines without tables -/

/-- Byte `a` of the output of format 1 (43_pixel_formats.md R213). -/
def State.nibbleAt (s : State) (a : Nat) : Byte :=
  nibble (if a % 2 = 0 then s.rawAt (a / 2) % 16 else s.rawAt (a / 2) / 16)

theorem nibbleAt_even (s : State) (i : Nat) : s.nibbleAt (2 * i) = nibble (s.rawAt i % 16) := by
  rw [State.nibbleAt, if_pos (by omega), Nat.mul_div_cancel_left i (by decide)]

theorem nibbleAt_odd (s : State) (i : Nat) : s.nibbleAt (2 * i + 1) = nibble (s.rawAt i / 16) := by
  rw [State.nibbleAt, if_neg (by omega), show (2 * i + 1) / 2 = i by omega]

theorem repackBgra4444_fills {s : State} (hraw : s.n ≤ s.cfg.rawCap) (hout : 2 * s.n ≤ s.cfg.outCap) :
    Fills (2 * s.n) s.nibbleAt s (repackBgra4444 s) := by
  refine Draws.fills (W := fun a => ∃ i < s.n, a = 2 * i ∨ a = 2 * i + 1) ?_ fun a ha => ⟨a / 2, by omega, by omega⟩
  refine forUp_draws fun i u hi hu => ?_
  refine load_painted hu.painted (by omega) ?_
  refine Draws.andThen (store_draws ?_ (by omega) (by rw [hu.painted.cfg]; exact hout)) fun v hv => ?_
  · rw [nibbleAt_even]
    exact rep4_lo4 _
  refine store_draws ?_ (by omega) (by rw [(hu.trans hv).painted.cfg]; exact hout)
  rw [nibbleAt_odd]
  exact rep4_hi4 _

theorem repackCopy_fills {s : State} (hraw : s.n ≤ s.cfg.rawCap) (hout : s.n ≤ s.cfg.outCap) :
    Fills s.n (s.byteAt .raw) s (repackCopy s) := by
  refine Draws.fills (W := fun a => ∃ i < s.n, a = i) ?_ fun a ha => ⟨a, ha, rfl⟩
  refine forUp_draws fun i u hi hu => ?_
  exact load_painted hu.painted (by omega) (store_draws rfl hi (by rw [hu.painted.cfg]; exact hout))

/-- The colour of a tile of format 3 (43_pixel_formats.md R215). -/
def State.tileColour (s : State) (tile : Nat) : List Byte :=
  [nibble (s.rawAt (2 * tile) % 16), nibble (s.rawAt (2 * tile) / 16), nibble (s.rawAt (2 * tile + 1) % 16),
    nibble (s.rawAt (2 * tile + 1) / 16)]

/-- The index of the 4x4 block of a pixel, in raster order (43_pixel_formats.md R215, 44_dxt.md R241). -/
def State.blockIndex (s : State) (x y : Nat) : Nat := x / 4 + y / 4 * ceil4 s.w

theorem blockIndex_pixel (s : State) {i j : Nat} (col row : Nat) (hi : i < 4) (hj : j < 4) :
    s.blockIndex (4 * col + i) (4 * row + j) = col + row * ceil4 s.w := by
  rw [State.blockIndex, show (4 * col + i) / 4 = col by omega, show (4 * row + j) / 4 = row by omega]

/-- Every pixel of format 3 has the colour of its tile. -/
theorem repackTile4444_fills {s : State} (hraw : 2 * (ceil4 s.w * ceil4 s.h) ≤ s.cfg.rawCap)
    (hout : s.w * s.h * 4 ≤ s.cfg.outCap) :
    Fills (s.w * s.h * 4) (picture s.w fun x y => s.tileColour (s.blockIndex x y)) s (repackTile4444 s) := by
  refine Draws.fills (W := fun a => ∃ row < ceil4 s.h, ∃ col < ceil4 s.w, InBlock s col row a) ?_
    fun a ha => inBlock_cover ha
  refine forUp_draws fun row u hrow hu => forUp_draws fun col v hcol hv => ?_
  have hp := (hu.trans hv).painted
  have htile := tile_index hcol hrow
  refine load_painted hp (by omega) (load_painted hp (by omega) ?_)
  have hdraws := block_draws (t := v) (col := col) (row := row)
    (colour := fun x y => s.tileColour (s.blockIndex x y))
    (body := fun j i => putClipped (4 * col + i) (4 * row + j) _ _ _ _)
    (fun j i w hj hi _ => ⟨_, _, _, _, rfl, by rw [blockIndex_pixel s col row hi hj]; rfl⟩)
    (by rw [hp.w, hp.h, hp.cfg]; exact hout)
  rw [hp.w, hp.h] at hdraws
  unfold fillTile
  rw [rep4_lo4, rep4_lo4, rep4_hi4, rep4_hi4]
  exact hdraws.mono fun a ha => by simpa only [InBlock, hp.w, hp.h] using ha

/-- Byte `a` of the output of format 517 (43_pixel_formats.md R217). -/
def State.grayAt (s : State) (a : Nat) : Byte :=
  if a % 4 = 3 then 255 else if s.rawAt (a / 4 / 128) / 2 ^ (7 - a / 4 / 16 % 8) % 2 = 1 then 255 else 0

theorem grayAt_alpha (s : State) (p : Nat) : s.grayAt (4 * p + 3) = 255 := if_pos (by omega)

theorem grayAt_colour (s : State) (p : Nat) {c : Nat} (hc : c < 3) :
    s.grayAt (4 * p + c) = if s.rawAt (p / 128) / 2 ^ (7 - p / 16 % 8) % 2 = 1 then 255 else 0 := by
  rw [State.grayAt, if_neg (by omega), show (4 * p + c) / 4 = p by omega]

/-- The gray value of one bit, 1 for white. -/
theorem gray_of_bit (v : Byte) (k : Nat) :
    BitVec.ofNat 8 (255 * ((v.toNat >>> k) % 2)) = if v.toNat / 2 ^ k % 2 = 1 then 255 else 0 := by
  rw [Nat.shiftRight_eq_div_pow]
  rcases Nat.mod_two_eq_zero_or_one (v.toNat / 2 ^ k) with h | h <;> rw [h] <;> rfl

theorem repackGray1x16_fills {s : State} (hn : 128 * s.n = s.w * s.h) (hraw : s.n ≤ s.cfg.rawCap)
    (hout : s.w * s.h * 4 ≤ s.cfg.outCap) : Fills (s.w * s.h * 4) s.grayAt s (repackGray1x16 s) := by
  refine Draws.fills (W := fun a => ∃ q < s.n, ∃ j < 8, ∃ k < 16, a / 4 = (8 * q + j) * 16 + k) ?_
    fun a ha => ⟨a / 4 / 128, by omega, a / 4 / 16 % 8, by omega, a / 4 % 16, by omega, by omega⟩
  refine forUp_draws fun q u hq hu => forUp_draws fun j v hj hv => ?_
  have hp := (hu.trans hv).painted
  refine load_painted hp (by omega) (forUp_draws fun k w hk hw => ?_)
  have hpixel : ((8 * q + j) * 16 + k) / 128 = q := by omega
  have hbit : ((8 * q + j) * 16 + k) / 16 % 8 = j := by omega
  have hcolour {c : Nat} (hc : c < 3) :
      BitVec.ofNat 8 (255 * (((s.byteAt .raw q).toNat >>> (7 - j)) % 2)) =
        s.grayAt (4 * ((8 * q + j) * 16 + k) + c) := by
    rw [grayAt_colour s _ hc, hpixel, hbit]
    exact gray_of_bit _ _
  rw [putGray_eq_storePixel]
  refine storePixel_draws rfl (hcolour (c := 0) (by decide)) (hcolour (by decide)) (hcolour (by decide))
    (grayAt_alpha s _).symm (by omega) ?_
  rw [((hu.trans hv).trans hw).painted.cfg]
  exact hout

end Sys2Proof.Machine

namespace Sys2Proof.Proofs
open Sys2Proof.Machine

/-- Settles O40: the routine draws the nibbles of `RAW`, two bytes a turn. -/
theorem repackBgra4444 : Obligations.RepackBgra4444 := by
  intro s hph hn hraw hout
  have hsize : s.w * s.h * 4 = 2 * s.n := by omega
  rw [hsize] at hout ⊢
  obtain ⟨t, ht, hdrawn, hfin⟩ := formatRow_finishes (fmt := 1) hph hsize (repackBgra4444_fills hraw hout)
  refine ⟨t, ht, fun i hi => ⟨?_, ?_⟩, hfin⟩
  · rw [← nibbleAt_even]
    exact byteAt_of_get? (hdrawn _ (by omega))
  · rw [← nibbleAt_odd]
    exact byteAt_of_get? (hdrawn _ (by omega))

/-- Settles O41: both formats run the copy; their output sizes are `N`. -/
theorem repackCopies : Obligations.RepackCopies := by
  refine ⟨fun s hph hn hraw hout => ?_, fun s hph hn hraw hout => ?_⟩
  · obtain ⟨t, ht, hdrawn, hfin⟩ := formatRow_finishes (fmt := 2) hph hn.symm (repackCopy_fills hraw hout)
    exact ⟨t, ht, fun i hi => byteAt_of_get? (hdrawn i hi), hfin⟩
  · obtain ⟨t, ht, hdrawn, hfin⟩ := formatRow_finishes (fmt := 513) hph hn.symm (repackCopy_fills hraw hout)
    exact ⟨t, ht, fun i hi => byteAt_of_get? (hdrawn i hi), hfin⟩

/-- Settles O42: tile by tile the routine draws the picture that has each pixel in the colour of its tile, and the tiles
cover the image. -/
theorem repackTile4444 : Obligations.RepackTile4444 := by
  intro s hph hraw hout
  rw [mul_assoc] at hraw
  obtain ⟨t, ht, hdrawn, hfin⟩ :=
    formatRow_finishes (fmt := 3) (size := s.w * s.h * 4) hph rfl (repackTile4444_fills hraw hout)
  refine ⟨t, ht, ?_, hfin⟩
  rintro x y tile hx hy rfl
  exact hfin.pixel hdrawn hx hy rfl

/-- Settles O43: 16 pixels for each bit, drawn at their flat index. -/
theorem repackGray1x16 : Obligations.RepackGray1x16 := by
  intro s hph hn hraw hout
  obtain ⟨t, ht, hdrawn, hfin⟩ :=
    formatRow_finishes (fmt := 517) (size := s.w * s.h * 4) hph rfl (repackGray1x16_fills hn hraw hout)
  refine ⟨t, ht, fun p hp => ⟨fun c hc => ?_, ?_⟩, hfin⟩
  · rw [← grayAt_colour s p hc]
    exact byteAt_of_get? (hdrawn _ (by omega))
  · rw [← grayAt_alpha s p]
    exact byteAt_of_get? (hdrawn _ (by omega))

end Sys2Proof.Proofs
end

section
/-! SUPPORT. The exact working tables of a DXT block and the pixels drawn with them (44_dxt.md R241 to R251); then the
statements on the DXT formats and on REPACK as a whole (40_host_interface.md R127, R128). -/

namespace Sys2Proof.Machine

/-! ## Tables of 16 entries (10_state.md R37) -/

/-- A working table of 16 entries whose first `k` are those of `g`. -/
structure FilledTo {α : Type} (g : Nat → α) (k : Nat) (l : List α) : Prop where
  size : l.length = 16
  entry : ∀ i < k, l[i]? = some (g i)

section
variable {α : Type} {g : Nat → α} {k : Nat} {l : List α}

theorem FilledTo.empty (h : l.length = 16) : FilledTo g 0 l := ⟨h, fun _ hi => absurd hi (Nat.not_lt_zero _)⟩

theorem FilledTo.set {v : α} (h : FilledTo g k l) (hk : k < 16) (hv : v = g k) : FilledTo g (k + 1) (l.set k v) := by
  refine ⟨List.length_set.trans h.size, fun i hi => ?_⟩
  rcases Nat.lt_succ_iff_lt_or_eq.1 hi with hlt | rfl
  · rw [List.getElem?_set_ne (by omega), h.entry i hlt]
  · rw [List.getElem?_set_self (by rw [h.size]; exact hk), hv]

/-- The state is `upd l` for a table `l` whose first `k` entries are those of `g`. -/
def Filling (upd : List α → State) (g : Nat → α) (k : Nat) (s : State) : Prop := ∃ l, s = upd l ∧ FilledTo g k l

theorem FilledTo.getD {d : α} (h : FilledTo g k l) {i : Nat} (hi : i < k) : l.getD i d = g i := by
  rw [List.getD_eq_getElem?_getD, h.entry i hi, Option.getD_some]

end

/-! ## The values of a DXT block (44_dxt.md R242 to R250) -/

/-- A 16-bit endpoint colour of a block (44_dxt.md R242). -/
def State.endpoint (s : State) (a : Nat) : Nat := s.rawAt a + 256 * s.rawAt (a + 1)

/-- The 2-bit colour index of pixel `k` of the block at `off` (44_dxt.md R246). -/
def State.colourIndex (s : State) (off k : Nat) : Nat := s.rawAt (off + 12 + k / 4) / 4 ^ (k % 4) % 4

/-- The colour of pixel `k` of the block at `off` (44_dxt.md R244 to R246). -/
def State.blockColour (s : State) (off k : Nat) : Colour :=
  (colourTable (s.endpoint (off + 8)) (s.endpoint (off + 10))).getD (s.colourIndex off k) { r := 0, g := 0, b := 0 }

/-- The 3-bit alpha index of pixel `k` of the DXT5 block at `off`, in its group of 24 bits (44_dxt.md R250). -/
def State.alphaIndex (s : State) (off k : Nat) : Nat :=
  (s.rawAt (off + 2 + 3 * (k / 8)) + 256 * s.rawAt (off + 3 + 3 * (k / 8)) +
    65536 * s.rawAt (off + 4 + 3 * (k / 8))) / 8 ^ (k % 8) % 8

/-- The alpha nibble of pixel `k` of the DXT3 block at `off` (44_dxt.md R247). -/
def State.alphaNibble (s : State) (off k : Nat) : Byte :=
  nibble (if k % 2 = 0 then s.rawAt (off + k / 2) % 16 else s.rawAt (off + k / 2) / 16)

/-- The alpha of pixel `k` of the block at `off` (44_dxt.md R247 to R250). -/
def State.blockAlpha (s : State) (dxt5 : Bool) (off k : Nat) : Byte :=
  match dxt5 with
  | false => s.alphaNibble off k
  | true => alphaEntry (s.byteAt .raw off) (s.byteAt .raw (off + 1)) (s.alphaIndex off k)

/-- The four bytes of pixel `k` of the block at `off` (44_dxt.md R251). -/
def State.blockPixel (s : State) (dxt5 : Bool) (off k : Nat) : List Byte :=
  [(s.blockColour off k).b, (s.blockColour off k).g, (s.blockColour off k).r, s.blockAlpha dxt5 off k]

/-- The four bytes of the pixel at `(x, y)` of a DXT image (44_dxt.md R241, R251). -/
def State.dxtPixel (s : State) (dxt5 : Bool) (x y : Nat) : List Byte :=
  s.blockPixel dxt5 (16 * s.blockIndex x y) (4 * (y % 4) + x % 4)

/-- The endpoints are little-endian (44_dxt.md R242). -/
theorem le_two (s : State) (a : Nat) : s.le .raw a 2 = s.endpoint a := by
  simp [State.le, State.endpoint, State.rawAt]

/-! ## Two accounts of one operation -/

/-- What two accounts of an operation say of its completion holds together. -/
theorem Res.Sat.and {α : Type} {r : Res α} {Q Q' : α → State → Prop} {E : ErrCode → State → Prop} {F : Fault → Prop}
    (h : r.Sat Q E F) (h' : r.Sat Q' E F) : r.Sat (fun a s => Q a s ∧ Q' a s) E F := by
  cases r with
  | ok a s => exact ⟨h, h'⟩
  | err e s => exact h
  | fault x => exact h
  | refuse x => exact h

/-! ## Loading the tables of a block -/

/-- The state with another colour table. -/
def State.withCt (s : State) (l : List Colour) : State := { s with ct := l }

/-- The state with other colour indices. -/
def State.withCidx (s : State) (l : List Nat) : State := { s with cidx := l }

/-- The state with another alpha table. -/
def State.withAlphaTab (s : State) (l : List Byte) : State := { s with alphaTab := l }

/-- The state with other alpha indices. -/
def State.withAidx (s : State) (l : List Nat) : State := { s with aidx := l }

section
variable {off : Nat} {t : State}

theorem loadColours_ok (ho : off + 16 ≤ t.cfg.rawCap) :
    loadColours off t = .ok () (t.withCt (colourTable (t.endpoint (off + 8)) (t.endpoint (off + 10)))) := by
  have h0 := memRead_inside (b := .raw) (a := off + 8) (n := 2) (s := t) (show _ ≤ t.cfg.rawCap by omega)
  have h1 := memRead_inside (b := .raw) (a := off + 10) (n := 2) (s := t) (show _ ≤ t.cfg.rawCap by omega)
  rw [loadColours, h0, Res.andThen_ok, h1, Res.andThen_ok, le_two, le_two]
  rfl

theorem loadColourIndices_ok (ho : off + 16 ≤ t.cfg.rawCap) (hlen : t.cidx.length = 16) :
    ∃ u, loadColourIndices off t = .ok () u ∧ Filling t.withCidx (t.colourIndex off) 16 u := by
  refine forUp_ok (fun j => Filling t.withCidx (t.colourIndex off) (4 * j)) 4 0 ⟨t.cidx, rfl, .empty hlen⟩
    fun j v _ hj hv => forUp_ok (fun i => Filling t.withCidx (t.colourIndex off) (4 * j + i)) 4 0 hv ?_
  rintro i v - hi ⟨l, rfl, hl⟩
  have hload := load_inside (b := .raw) (a := off + 12 + j) (s := t.withCidx l) (show _ < t.cfg.rawCap by omega)
  rw [hload]
  refine ⟨_, rfl, _, rfl, hl.set (by omega) ?_⟩
  rw [State.colourIndex, show (4 * j + i) / 4 = j by omega, show (4 * j + i) % 4 = i by omega,
    Nat.shiftRight_eq_div_pow, pow_mul]
  rfl

theorem loadAlphaDxt3_ok (ho : off + 16 ≤ t.cfg.rawCap) (hlen : t.alphaTab.length = 16) :
    ∃ u, loadAlphaDxt3 off t = .ok () u ∧ Filling t.withAlphaTab (t.alphaNibble off) 16 u := by
  refine forUp_ok (fun m => Filling t.withAlphaTab (t.alphaNibble off) (2 * m)) 8 0 ⟨t.alphaTab, rfl, .empty hlen⟩ ?_
  rintro m v - hm ⟨l, rfl, hl⟩
  have hload := load_inside (b := .raw) (a := off + m) (s := t.withAlphaTab l) (show _ < t.cfg.rawCap by omega)
  rw [hload]
  refine ⟨_, rfl, _, rfl, (hl.set (by omega) ?_).set (by omega) ?_⟩
  · rw [rep4_lo4, State.alphaNibble, if_pos (by omega), show 2 * m / 2 = m by omega]
    rfl
  · rw [rep4_hi4, State.alphaNibble, if_neg (by omega), show (2 * m + 1) / 2 = m by omega]
    rfl

/-- The working alpha table of a DXT5 block: its eight values, and eight entries left over (log 20). -/
def State.alphaValues (s : State) (off : Nat) : List Byte :=
  (List.range 8).map (alphaEntry (s.byteAt .raw off) (s.byteAt .raw (off + 1))) ++ s.alphaTab.drop 8

theorem alphaValues_getD (s : State) (off : Nat) {i : Nat} (hi : i < 8) :
    (s.alphaValues off).getD i 0 = alphaEntry (s.byteAt .raw off) (s.byteAt .raw (off + 1)) i := by
  have hlen : i < ((List.range 8).map (alphaEntry (s.byteAt .raw off) (s.byteAt .raw (off + 1)))).length := by simpa
  rw [State.alphaValues, List.getD_append _ _ _ _ hlen, List.getD_eq_getElem _ _ hlen, List.getElem_map,
    List.getElem_range]

theorem loadAlphaTable_ok (ho : off + 16 ≤ t.cfg.rawCap) :
    loadAlphaTable off t = .ok () (t.withAlphaTab (t.alphaValues off)) := by
  have h0 := load_inside (b := .raw) (a := off) (s := t) (show _ < t.cfg.rawCap by omega)
  have h1 := load_inside (b := .raw) (a := off + 1) (s := t) (show _ < t.cfg.rawCap by omega)
  rw [loadAlphaTable, h0, Res.andThen_ok, h1, Res.andThen_ok]
  rfl

theorem le_three (s : State) (a : Nat) :
    s.le .raw a 3 = s.rawAt a + 256 * s.rawAt (a + 1) + 65536 * s.rawAt (a + 2) := by
  simp only [State.le, State.rawAt, Nat.add_assoc, Nat.reduceAdd]
  omega

theorem loadAlphaIndices_ok (ho : off + 16 ≤ t.cfg.rawCap) (hlen : t.aidx.length = 16) :
    ∃ u, loadAlphaIndices off t = .ok () u ∧ Filling t.withAidx (t.alphaIndex off) 16 u := by
  refine forUp_ok (fun g => Filling t.withAidx (t.alphaIndex off) (8 * g)) 2 0 ⟨t.aidx, rfl, .empty hlen⟩ ?_
  intro g v _ hg hv
  have hbits : memRead .raw (off + 2 + 3 * g) 3 v = .ok (t.le .raw (off + 2 + 3 * g) 3) v := by
    obtain ⟨l, rfl, -⟩ := hv
    exact memRead_inside (b := .raw) (s := t.withAidx l) (show _ ≤ t.cfg.rawCap by omega)
  rw [hbits, Res.andThen_ok]
  refine forUp_ok (fun j => Filling t.withAidx (t.alphaIndex off) (8 * g + j)) 8 0 hv ?_
  rintro j v - hj ⟨l, rfl, hl⟩
  refine ⟨_, rfl, _, rfl, hl.set (by omega) ?_⟩
  rw [le_three, State.alphaIndex, show (8 * g + j) / 8 = g by omega, show (8 * g + j) % 8 = j by omega,
    Nat.shiftRight_eq_div_pow, pow_mul, show off + 2 + 3 * g + 1 = off + 3 + 3 * g by omega,
    show off + 2 + 3 * g + 2 = off + 4 + 3 * g by omega]
  rfl

/-- The alpha part of a block changes only its tables, and they give each pixel the alpha that the bytes of the block
say. -/
theorem loadAlpha_ok (dxt5 : Bool) (ho : off + 16 ≤ t.cfg.rawCap) (htab : t.alphaTab.length = 16)
    (hidx : t.aidx.length = 16) :
    ∃ u, (if dxt5 then loadAlphaDxt5 off t else loadAlphaDxt3 off t) = .ok () u ∧
      u = { t with alphaTab := u.alphaTab, aidx := u.aidx } ∧ ∀ k < 16, u.alphaOf dxt5 k = t.blockAlpha dxt5 off k := by
  cases dxt5 with
  | false =>
    obtain ⟨_, hu, l, rfl, hfill⟩ := loadAlphaDxt3_ok ho htab
    exact ⟨_, hu, rfl, fun k hk => hfill.getD hk⟩
  | true =>
    obtain ⟨_, hu, l, rfl, hfill⟩ := loadAlphaIndices_ok (t := t.withAlphaTab (t.alphaValues off)) ho hidx
    refine ⟨(t.withAlphaTab (t.alphaValues off)).withAidx l, ?_, rfl, fun k hk => ?_⟩
    · rw [if_pos rfl, loadAlphaDxt5, loadAlphaTable_ok ho, Res.andThen_ok]
      exact hu
    · have hentry : l.getD k 0 = t.alphaIndex off k := hfill.getD hk
      calc (t.alphaValues off).getD (l.getD k 0) 0 = (t.alphaValues off).getD (t.alphaIndex off k) 0 := by rw [hentry]
        _ = t.blockAlpha true off k := alphaValues_getD t off (Nat.mod_lt _ (by decide))

/-- The tables of the block at `off` are loaded in `u`, where nothing but the tables differs from `t`. -/
structure BlockLoaded (dxt5 : Bool) (off : Nat) (t u : State) : Prop where
  same : u = { t with ct := u.ct, cidx := u.cidx, alphaTab := u.alphaTab, aidx := u.aidx }
  alpha : ∀ k < 16, u.alphaOf dxt5 k = t.blockAlpha dxt5 off k
  colour : ∀ k < 16, u.colourOf k = t.blockColour off k

/-- A block is its tables and then its pixels (44_dxt.md R241). -/
theorem dxtBlock_loaded (dxt5 : Bool) (col row : Nat) (ho : off + 16 ≤ t.cfg.rawCap) (hcidx : t.cidx.length = 16)
    (htab : t.alphaTab.length = 16) (haidx : t.aidx.length = 16) :
    ∃ u, dxtBlock dxt5 col row off t = writeBlock dxt5 (4 * col) (4 * row) u ∧ BlockLoaded dxt5 off t u := by
  obtain ⟨u1, hload, hsame, halpha⟩ := loadAlpha_ok dxt5 ho htab haidx
  have hcfg : u1.cfg = t.cfg := by rw [hsame]
  have hcidx1 : u1.cidx = t.cidx := by rw [hsame]
  obtain ⟨_, hindices, l, rfl, hfill⟩ := loadColourIndices_ok
    (t := u1.withCt (colourTable (u1.endpoint (off + 8)) (u1.endpoint (off + 10)))) (hcfg ▸ ho) (hcidx1 ▸ hcidx)
  refine ⟨(u1.withCt (colourTable (u1.endpoint (off + 8)) (u1.endpoint (off + 10)))).withCidx l, ?_, ?_, halpha,
    fun k hk => ?_⟩
  · rw [dxtBlock, hload, Res.andThen_ok, loadColours_ok (hcfg ▸ ho), Res.andThen_ok, hindices, Res.andThen_ok]
  · exact congrArg (fun v => (v.withCt (colourTable (u1.endpoint (off + 8)) (u1.endpoint (off + 10)))).withCidx l) hsame
  · have hentry : l.getD k 0 = u1.colourIndex off k := hfill.getD hk
    have hcolour : u1.blockColour off k = t.blockColour off k := by rw [hsame]; rfl
    rw [← hcolour, State.blockColour, ← hentry]
    rfl

end

/-! ## DXT images (44_dxt.md R241, R251) -/

section
variable {s t : State} {dxt5 : Bool} {col row : Nat}

/-- The values of a block are those of `RAW`, which painting does not change. -/
theorem Painted.blockPixel {hi : Nat} (h : Painted hi s t) (off k : Nat) :
    t.blockPixel dxt5 off k = s.blockPixel dxt5 off k := by
  rw [h.same]
  rfl

theorem dxtPixel_block (s : State) {i j : Nat} (hi : i < 4) (hj : j < 4) :
    s.dxtPixel dxt5 (4 * col + i) (4 * row + j) = s.blockPixel dxt5 (16 * (col + row * ceil4 s.w)) (4 * j + i) := by
  rw [State.dxtPixel, blockIndex_pixel s col row hi hj, show (4 * row + j) % 4 = j by omega,
    show (4 * col + i) % 4 = i by omega]

/-- With the tables of a block loaded, the pixels that are written are those of the block, whatever `OUT` holds. -/
theorem BlockLoaded.pixel {u v : State} {hi off k : Nat} (h : BlockLoaded dxt5 off t u) (hv : OutOnly hi u v)
    (hk : k < 16) :
    t.blockPixel dxt5 off k = [(v.colourOf k).b, (v.colourOf k).g, (v.colourOf k).r, v.alphaOf dxt5 k] := by
  have hcolour : v.colourOf k = u.colourOf k := by rw [hv.same]; rfl
  have halpha : v.alphaOf dxt5 k = u.alphaOf dxt5 k := by rw [hv.same]; rfl
  rw [hcolour, halpha, h.colour k hk, h.alpha k hk, State.blockPixel]

theorem writeBlock_draws {u : State} (hp : Painted (s.w * s.h * 4) s t)
    (hu : BlockLoaded dxt5 (16 * (col + row * ceil4 s.w)) t u) (hout : s.w * s.h * 4 ≤ s.cfg.outCap) :
    (writeBlock dxt5 (4 * col) (4 * row) u).Sat
      (fun _ v => Shown (picture s.w (s.dxtPixel dxt5)) (InBlock s col row) t.out v.out) (fun _ _ => False)
      fun _ => False := by
  have hw : u.w = s.w := by rw [hu.same]; exact hp.w
  have hh : u.h = s.h := by rw [hu.same]; exact hp.h
  have hcfg : u.cfg = s.cfg := by rw [hu.same]; exact hp.cfg
  have hstart : u.out = t.out := by rw [hu.same]
  have hdraws := block_draws (t := u) (col := col) (row := row) (colour := s.dxtPixel dxt5)
    (body := fun j i v => putClipped (4 * col + i) (4 * row + j) (v.colourOf (4 * j + i)).b (v.colourOf (4 * j + i)).g
      (v.colourOf (4 * j + i)).r (v.alphaOf dxt5 (4 * j + i)) v)
    (fun j i v hj hi hv => ⟨_, _, _, _, rfl, by
      rw [dxtPixel_block s hi hj, ← hp.blockPixel, hu.pixel hv (by omega)]⟩)
    (by rw [hw, hh, hcfg]; exact hout)
  rw [hw, hh] at hdraws
  refine hdraws.mono_ok fun _ v ⟨_, hv⟩ => hstart ▸ hv.mono fun a ha => ?_
  simpa only [InBlock, hw, hh] using ha

/-- Every pixel of a DXT image has the colour and the alpha of its block. -/
theorem dxtImage_fills (htab : s.TablesFit) (hraw : 16 * (ceil4 s.w * ceil4 s.h) ≤ s.cfg.rawCap)
    (hout : s.w * s.h * 4 ≤ s.cfg.outCap) :
    Fills (s.w * s.h * 4) (picture s.w (s.dxtPixel dxt5)) s (dxtImage dxt5 s) := by
  have hturns : (dxtImage dxt5 s).Sat
      (fun _ v => Painted (s.w * s.h * 4) s v ∧ Shown (picture s.w (s.dxtPixel dxt5))
        (fun a => ∃ row < ceil4 s.h, ∃ col < ceil4 s.w, InBlock s col row a) s.out v.out)
      (fun _ _ => False) fun _ => False := by
    refine forUp_shown (.refl _ s) fun row u hrow hu => forUp_shown hu fun col v hcol hv => ?_
    have hoff := tile_index hcol hrow
    obtain ⟨x, hx, hloaded⟩ := dxtBlock_loaded (t := v) (off := 16 * (col + row * ceil4 s.w)) dxt5 col row
      (by rw [hv.cfg]; omega) (hv.cidx htab.cidx).1 (hv.alphaTab htab.alphaTab) (hv.aidx htab.aidx).1
    refine (dxtBlock_paints hv dxt5 col row _ (by omega) hout).and ?_
    rw [hx]
    exact writeBlock_draws hv hloaded hout
  exact hturns.mono_ok fun _ v ⟨hv, hs⟩ => ⟨hv, fun a ha => hs.here a (inBlock_cover ha)⟩

/-- The entry of the colour table that the index selects is the colour of the pixel. -/
theorem blockColour_of_entry {off k : Nat} {c : Colour}
    (h : (colourTable (s.endpoint (off + 8)) (s.endpoint (off + 10)))[s.colourIndex off k]? = some c) :
    s.blockColour off k = c := by
  rw [State.blockColour, List.getD_eq_getElem?_getD, h, Option.getD_some]

/-- A DXT row in REPACK draws every pixel of its image and finishes the decode. -/
theorem formatRow_dxt {fmt : Nat} (hph : s.phase = .repack) (htab : s.TablesFit)
    (hraw : 16 * ceil4 s.w * ceil4 s.h ≤ s.cfg.rawCap) (hout : s.w * s.h * 4 ≤ s.cfg.outCap)
    (hsize : outSize fmt s.w s.h = s.w * s.h * 4) :
    ∃ t, formatRow fmt (dxtImage dxt5) s = .next t ∧
      (∀ x y off k c, x < s.w → y < s.h → off = 16 * s.blockIndex x y → k = 4 * (y % 4) + x % 4 →
        (colourTable (s.endpoint (off + 8)) (s.endpoint (off + 10)))[s.colourIndex off k]? = some c →
        t.pixel x y = [c.b, c.g, c.r, s.blockAlpha dxt5 off k]) ∧
      Finished (if fmt = 513 then 1 else 0) (s.w * s.h * 4) s t := by
  rw [mul_assoc] at hraw
  obtain ⟨t, ht, hdrawn, hfin⟩ := formatRow_finishes hph hsize (dxtImage_fills (dxt5 := dxt5) htab hraw hout)
  refine ⟨t, ht, ?_, hfin⟩
  rintro x y off k c hx hy rfl rfl hc
  refine hfin.pixel hdrawn hx hy ?_
  rw [State.dxtPixel, State.blockPixel, blockColour_of_entry hc]

end

/-! ## Every format (40_host_interface.md R127, R128) -/

/-- The routine of a dispatched format writes every byte below `OUT_SIZE`. -/
theorem repackOf_fills {s : State} (h : s.formatFits) (htab : s.TablesFit) :
    ∃ f, Fills (outSize s.fmt s.w s.h) f s (repackOf s.fmt s) := by
  obtain ⟨-, hcode, hn, hdims, hraw, hout⟩ := h
  have hblocks : 16 * ceil4 s.w * ceil4 s.h = 16 * (ceil4 s.w * ceil4 s.h) := mul_assoc _ _ _
  simp only [formatCodes, List.mem_cons, List.not_mem_nil, or_false] at hcode
  rcases hcode with he | he | he | he | he | he | he <;> rw [he] at hn hdims hout ⊢
  · have hsize : outSize 1 s.w s.h = 2 * s.n := by rw [hn, rawSize, outSize, if_neg (by decide)]; omega
    rw [hsize] at hout ⊢
    exact ⟨_, repackBgra4444_fills hraw hout⟩
  · have hsize : outSize 2 s.w s.h = s.n := hn.symm
    rw [hsize] at hout ⊢
    exact ⟨_, repackCopy_fills hraw hout⟩
  · rw [rawSize_tile4444, mul_assoc] at hn
    exact ⟨_, repackTile4444_fills (hn ▸ hraw) hout⟩
  · have hsize : outSize 513 s.w s.h = s.n := hn.symm
    rw [hsize] at hout ⊢
    exact ⟨_, repackCopy_fills hraw hout⟩
  · have hbits : 128 * (s.w * s.h / 128) = s.w * s.h := beq_iff_eq.1 hdims
    exact ⟨_, repackGray1x16_fills (hn ▸ hbits) hraw hout⟩
  all_goals
    have harea : 16 * ceil4 s.w * ceil4 s.h = s.w * s.h := beq_iff_eq.1 hdims
    exact ⟨_, dxtImage_fills htab (by rw [← hblocks, harea]; exact hn.symm.trans_le hraw) hout⟩

/-- A step of REPACK draws the whole output and finishes the decode. -/
theorem step_repack {s : State} (hinv : s.Inv) (hturn : s.engineTurn = true) (hph : s.phase = .repack) :
    ∃ (f : Nat → Byte) (t : State), step s = .next t ∧ (∀ a < outSize s.fmt s.w s.h, (t.mem .out).get? a = some (f a)) ∧
      Finished (if s.fmt = 513 then 1 else 0) (outSize s.fmt s.w s.h) s t := by
  have hfits := hinv.phase
  simp only [State.phaseFits, hph] at hfits
  obtain ⟨-, hform, -⟩ := hfits
  obtain ⟨-, hcode, -⟩ := id hform
  obtain ⟨f, hfills⟩ := repackOf_fills hform hinv.tables
  obtain ⟨i, hd, hx⟩ := decode_fmt_supported hcode
  obtain ⟨t, ht, hdrawn, hfin⟩ := formatRow_finishes hph rfl hfills
  exact ⟨f, t, by rw [step_of_select hturn (nextAction_repack hph) hd, hx, ht], hdrawn, hfin⟩

end Sys2Proof.Machine

namespace Sys2Proof.Proofs
open Sys2Proof.Machine

/-- Settles O44: block by block the routine loads the tables and draws the picture that has each pixel in the colour and
alpha of its block. -/
theorem repackDxt3 : Obligations.RepackDxt3 := fun _ hph htab hraw hout =>
  formatRow_dxt (fmt := 1026) (dxt5 := false) hph htab hraw hout rfl

/-- Settles O45: the same, with the alpha of the interpolated table. -/
theorem repackDxt5 : Obligations.RepackDxt5 := fun _ hph htab hraw hout =>
  formatRow_dxt (fmt := 2050) (dxt5 := true) hph htab hraw hout rfl

/-- Settles O49: the routine of the format in force writes every byte below `OUT_SIZE` and none beyond, where `OUT` held
nothing before. -/
theorem repackWritesOut : Obligations.RepackWritesOut := by
  intro s hinv hturn hph
  obtain ⟨f, t, ht, hdrawn, hsame, -, hbeyond⟩ := step_repack hinv hturn hph
  have hfits := hinv.phase
  simp only [State.phaseFits, hph] at hfits
  obtain ⟨-, ⟨-, -, -, -, -, hcap⟩, -⟩ := hfits
  obtain ⟨-, -, -, -, hcfg, -⟩ := hinv.cfg
  have hempty : s.out = [] := hinv.outEmpty (by rw [hph]; decide)
  have hlen : t.outLen.toNat = outSize s.fmt s.w s.h := by
    rw [hsame]
    exact Nat.mod_eq_of_lt (by omega)
  refine ⟨t, ht, by rw [hsame], fun a => ?_⟩
  rw [hlen]
  by_cases ha : a < outSize s.fmt s.w s.h
  · rw [hdrawn a ha]
    exact iff_of_true rfl ha
  · rw [hbeyond a (Nat.not_lt.1 ha), mem_out, hempty]
    exact iff_of_false Bool.false_ne_true ha

end Sys2Proof.Proofs
end

section
/-! SUPPORT. The values of the working tables of a DXT block (44_dxt.md R243 to R245, R248, R249): bit replication and
rounded weighted means fit in a byte; then the statements on them. -/

namespace Sys2Proof.Machine

/-! ## Bit replication (44_dxt.md R243) -/

/-- A value of `up + down` bits, scaled up to 8 with its top `up` bits in the vacated low bits. -/
theorem toNat_replicated {up down x : Nat} (hx : x < 2 ^ (up + down)) (hbits : up + down + up = 8) :
    (BitVec.ofNat 8 (x <<< up ||| x >>> down)).toNat = x * 2 ^ up + x / 2 ^ down := by
  have htop : x / 2 ^ down < 2 ^ up := Nat.div_lt_of_lt_mul (by rwa [← pow_add, add_comm])
  have hfits : x * 2 ^ up + x / 2 ^ down < 2 ^ 8 :=
    calc x * 2 ^ up + x / 2 ^ down < (x + 1) * 2 ^ up := by rw [add_one_mul]; exact Nat.add_lt_add_left htop _
      _ ≤ 2 ^ (up + down) * 2 ^ up := Nat.mul_le_mul_right _ hx
      _ = 2 ^ 8 := by rw [← pow_add, hbits]
  rw [Nat.shiftRight_eq_div_pow, ← Nat.shiftLeft_add_eq_or_of_lt htop, Nat.shiftLeft_eq, BitVec.toNat_ofNat,
    Nat.mod_eq_of_lt hfits]

/-- A field of a value, as quotient and remainder (00_scope.md R9). -/
theorem field_eq_div_mod (hi lo v : Nat) : field hi lo v = v / 2 ^ lo % 2 ^ (hi - lo + 1) := by
  rw [field, Nat.shiftRight_eq_div_pow]

theorem expand565_r (v : Nat) : (expand565 v).r.toNat = v / 2048 % 32 * 8 + v / 2048 % 32 / 4 := by
  have hred : field 15 11 v = v / 2048 % 32 := field_eq_div_mod 15 11 v
  rw [← hred]
  exact toNat_replicated (up := 3) (down := 2) (Nat.mod_lt _ (by decide)) rfl

theorem expand565_g (v : Nat) : (expand565 v).g.toNat = v / 32 % 64 * 4 + v / 32 % 64 / 16 := by
  have hgreen : field 10 5 v = v / 32 % 64 := field_eq_div_mod 10 5 v
  rw [← hgreen]
  exact toNat_replicated (up := 2) (down := 4) (Nat.mod_lt _ (by decide)) rfl

theorem expand565_b (v : Nat) : (expand565 v).b.toNat = v % 32 * 8 + v % 32 / 4 := by
  have hblue : field 4 0 v = v % 32 :=
    (field_eq_div_mod 4 0 v).trans (congrArg (· % 32) (Nat.div_one v))
  rw [← hblue]
  exact toNat_replicated (up := 3) (down := 2) (Nat.mod_lt _ (by decide)) rfl

/-! ## Rounded weighted means (44_dxt.md R245, R248, R249) -/

section
variable {m n r d : Nat}

/-- A mean of two bytes with weights `m` and `n` is a byte: it does not wrap around. -/
theorem toNat_weightedMean (u v : Byte) (hd : m + n = d) (hr : r < d) :
    (BitVec.ofNat 8 ((m * u.toNat + n * v.toNat + r) / d)).toNat = (m * u.toNat + n * v.toNat + r) / d := by
  have hu : m * u.toNat ≤ m * 255 := Nat.mul_le_mul_left m (Nat.le_of_lt_succ u.isLt)
  have hv : n * v.toNat ≤ n * 255 := Nat.mul_le_mul_left n (Nat.le_of_lt_succ v.isLt)
  have hfits : (m * u.toNat + n * v.toNat + r) / d < 2 ^ 8 := Nat.div_lt_of_lt_mul (by omega)
  rw [BitVec.toNat_ofNat, Nat.mod_eq_of_lt hfits]

theorem weightedMean_self (u : Byte) (hd : m + n = d) (hr : r < d) :
    BitVec.ofNat 8 ((m * u.toNat + n * u.toNat + r) / d) = u := by
  rw [← Nat.add_mul, hd, Nat.mul_add_div (Nat.zero_lt_of_lt hr), Nat.div_eq_of_lt hr, add_zero, BitVec.ofNat_toNat,
    BitVec.setWidth_eq]

end

theorem toNat_blend3 (u v : Byte) : (blend3 u v).toNat = (2 * u.toNat + v.toNat + 1) / 3 := by
  have h := toNat_weightedMean (m := 2) (n := 1) (r := 1) (d := 3) u v rfl (by decide)
  rwa [one_mul] at h

/-- The blend with the weights exchanged. -/
theorem toNat_blend3_swap (u v : Byte) : (blend3 v u).toNat = (u.toNat + 2 * v.toNat + 1) / 3 := by
  rw [toNat_blend3, Nat.add_comm u.toNat]

theorem blend3_self (u : Byte) : blend3 u u = u := by
  have h := weightedMean_self (m := 2) (n := 1) (r := 1) (d := 3) u rfl (by decide)
  rwa [one_mul] at h

theorem Colour.blend_self (c : Colour) : c.blend c = c := by
  rw [Colour.blend, blend3_self, blend3_self, blend3_self]

/-! ## The DXT5 alpha table (44_dxt.md R248, R249) -/

section
variable {a0 a1 : Byte} {i : Nat}

theorem alphaEntry_eight (h : a1.toNat < a0.toNat) (hi : 2 ≤ i) :
    alphaEntry a0 a1 i = BitVec.ofNat 8 (((8 - i) * a0.toNat + (i - 1) * a1.toNat + 3) / 7) := by
  rw [alphaEntry, if_neg (by omega), if_neg (by omega), if_pos h]

theorem alphaEntry_six (h : a0.toNat ≤ a1.toNat) (hi : 2 ≤ i) (hi5 : i ≤ 5) :
    alphaEntry a0 a1 i = BitVec.ofNat 8 (((6 - i) * a0.toNat + (i - 1) * a1.toNat + 2) / 5) := by
  rw [alphaEntry, if_neg (by omega), if_neg (by omega), if_neg (Nat.not_lt.2 h), if_pos (by omega)]

/-- With six entries the last two of the table are transparent and opaque (44_dxt.md R249). -/
theorem alphaEntry_extremes (h : a0.toNat ≤ a1.toNat) : alphaEntry a0 a1 6 = 0 ∧ alphaEntry a0 a1 7 = 255 :=
  ⟨if_neg (Nat.not_lt.2 h), if_neg (Nat.not_lt.2 h)⟩

theorem alphaEntry_self (a : Byte) (hi : i < 6) : alphaEntry a a i = a := by
  rcases (by omega : i = 0 ∨ i = 1 ∨ 2 ≤ i) with rfl | rfl | hi2
  · rfl
  · rfl
  · rw [alphaEntry_six le_rfl hi2 (by omega)]
    exact weightedMean_self a (by omega) (by decide)

end

end Sys2Proof.Machine

namespace Sys2Proof.Proofs
open Sys2Proof.Machine

/-- Settles O46: each channel is a replicated field; of a 16-bit value the red field is the whole quotient. -/
theorem colourExpansion : Obligations.ColourExpansion := by
  intro v hv
  have hred : v / 2048 % 32 = v / 2048 := Nat.mod_eq_of_lt (by omega)
  exact ⟨by rw [expand565_r, hred], expand565_g v, expand565_b v⟩

/-- Settles O47: entries 2 and 3 are weighted means of the endpoints, which are bytes, and the means of one colour are
that colour. -/
theorem colourTable : Obligations.ColourTable := by
  intro c0 c1
  refine ⟨_, _, rfl, ⟨toNat_blend3 _ _, toNat_blend3 _ _, toNat_blend3 _ _⟩,
    ⟨toNat_blend3_swap _ _, toNat_blend3_swap _ _, toNat_blend3_swap _ _⟩, ?_⟩
  rintro rfl
  exact ⟨Colour.blend_self _, Colour.blend_self _⟩

/-- Settles O48: in both cases the blends are weighted means of the endpoints, with weights that add up to the
divisor. -/
theorem alphaTable : Obligations.AlphaTable := by
  refine fun a0 a1 => ⟨rfl, rfl, fun h i hi hi7 => ?_, fun h => ⟨fun i hi hi5 => ?_, alphaEntry_extremes h⟩, ?_⟩
  · rw [alphaEntry_eight h hi]
    exact toNat_weightedMean a0 a1 (by omega) (by decide)
  · rw [alphaEntry_six h hi hi5]
    exact toNat_weightedMean a0 a1 (by omega) (by decide)
  · rintro rfl i hi
    exact alphaEntry_self a0 hi

end Sys2Proof.Proofs
end

section
/-! SUPPORT. What an engine in ERROR shows, and where the arrows into ERROR start (60_exceptions.md R285, R290, R298;
10_state.md R34); then the statements on taking an error. -/

namespace Sys2Proof.Machine

/-- A well-formed engine in ERROR shows a code of R285 and no part of a result (60_exceptions.md R298). -/
theorem State.Inv.noResult_of_error {t : State} (h : t.Inv) (hph : t.phase = .error) :
    t.outLen = 0 ∧ t.outFmt = 0 ∧ t.isDone = false ∧ 1 ≤ t.err.toNat ∧ t.err.toNat ≤ 8 ∧
      ∀ a, (t.mem .out).get? a = none := by
  have hresult := h.result
  have herr := h.err
  rw [hph, if_neg (by decide)] at hresult
  rw [if_pos hph] at herr
  obtain ⟨hlen, hfmt⟩ := hresult
  obtain ⟨hpos, hle⟩ := herr
  obtain ⟨-, hdone, -⟩ := statusAllowed_bits h.status
  have hnotDone : t.phase ≠ .done := by rw [hph]; decide
  refine ⟨hlen, hfmt, Bool.eq_false_iff.2 (mt hdone.1 hnotDone), hpos, hle, fun a => ?_⟩
  rw [mem_out, h.outEmpty hnotDone, Mem.get?_nil]

/-- No arrow leads from REPACK to ERROR (10_state.md R34). -/
theorem ne_repack_of_arrow_error {ph : Phase} (h : (ph, Phase.error) ∈ engineArrows) : ph ≠ .repack := by
  rintro rfl
  exact absurd h (by decide)

end Sys2Proof.Machine

namespace Sys2Proof.Proofs
open Sys2Proof.Machine

/-- Settles O19: the invariant of the state that the step leads to leaves no result in ERROR, the arrows of the sequencer
have none from REPACK to ERROR, and no step of a decode changes its inputs. -/
theorem failedDecodeLeavesNoResult : Obligations.FailedDecodeLeavesNoResult := by
  intro s t hinv hturn ht hph
  obtain ⟨hlen, hfmt, hdone, hpos, hle, hout⟩ := (step_keeps_inv hinv ht).noResult_of_error hph
  obtain ⟨u, hu, harrow⟩ := step_engineTurn_reaches hinv hturn
  obtain rfl : t = u := Host.Outcome.next.inj (ht.symm.trans hu)
  obtain ⟨hinputs, -⟩ := step_keeps_readOnly hinv hturn ht
  have hrepack : s.phase ≠ .repack := ne_repack_of_arrow_error (hph ▸ harrow)
  exact ⟨hlen, hfmt, hdone, hpos, hle, hout, hrepack, inputsKept_iff.2 hinputs⟩

/-- Settles O18: an error taken where it is raised, with a code of R285. -/
theorem raiseEffect : Obligations.RaiseEffect := by
  intro e s
  obtain ⟨herr, hstatus, hlen, hfmt, hph, hkept, hbytes⟩ := errorTaken_takeError (s := s) (t := s) e rfl rfl
  exact ⟨herr, hstatus, hlen, hfmt, hph, hkept, hbytes, errCode_bounds e⟩

end Sys2Proof.Proofs
end

section
/-! SUPPORT. How much work a decode has left: STRIP goes forward in the payload and INFLATE in the stream, every other
phase takes one step (70_reset_and_hazards.md R330, 42_deflate.md R185); then the statement that every decode ends. -/

namespace Sys2Proof.Machine

/-! ## The work that is left -/

/-- The work left when phase `ph` is about to be left, for a window of `l` bytes: room for all that the phases after
it may still need. -/
def Phase.floor (l : Nat) : Phase → Nat
  | .idle | .done | .error => 0
  | .repack => 1
  | .inflate => 2
  | .strip => 8 * l + 4
  | .classify => 9 * l + 5
  | .dispatch => 9 * l + 6
  | .fetch => 9 * l + 7

/-- The most work inside phase `ph`, for a window of `l` bytes: a byte of the payload for each turn of STRIP, a bit of
the stream for each element of INFLATE. -/
def Phase.span (l : Nat) : Phase → Nat
  | .strip => l
  | .inflate => 8 * l + 1
  | _ => 0

/-- The work left inside the phase: in STRIP the bytes from `IN_POS` on, in INFLATE the bits from `BITPOS` on, once the
stream is set up. -/
def State.left (s : State) : Nat :=
  match s.phase with
  | .strip => s.inLen.toNat - s.inPos
  | .inflate => if s.sub = .entry then 8 * s.inLen.toNat + 1 else 8 * s.zLen - s.bitPos
  | _ => 0

/-- A bound on the steps to the end of the decode. -/
def State.work (s : State) : Nat := s.phase.floor s.inLen.toNat + s.left

section
variable {s t : State}

theorem left_strip (h : s.phase = .strip) : s.left = s.inLen.toNat - s.inPos := by simp only [State.left, h]

theorem left_entry (h : s.phase = .inflate) (hsub : s.sub = .entry) : s.left = 8 * s.inLen.toNat + 1 := by
  simp only [State.left, h, hsub, if_true]

theorem left_inflate (h : s.phase = .inflate) (hsub : s.sub ≠ .entry) : s.left = 8 * s.zLen - s.bitPos := by
  simp only [State.left, h, hsub, if_false]

/-- Past its start INFLATE has a stream no longer than the payload (10_state.md R33). -/
theorem streamFits_of_inflateFits (h : s.inflateFits) (hsub : s.sub ≠ .entry) : s.streamFits := by
  unfold State.inflateFits at h
  split at h
  case h_1 he => exact absurd he hsub
  case h_2 => exact h
  case h_3 => exact h.1
  case h_4 => exact h
  case h_5 => exact h.1

/-- What is left inside a phase is within its span: the stream is no longer than the payload (41_framing.md R146). -/
theorem left_le_span (h : s.Inv) : s.left ≤ s.phase.span s.inLen.toNat := by
  have hfits := h.phase
  unfold State.left
  split
  case h_1 hph => rw [hph]; exact Nat.sub_le _ _
  case h_2 hph =>
    simp only [State.phaseFits, hph] at hfits
    obtain ⟨⟨-, hwin, -⟩, -, hinf⟩ := hfits
    rw [hph, Phase.span]
    split
    case isTrue => exact le_refl _
    case isFalse hsub =>
      obtain ⟨-, hlen, -⟩ := streamFits_of_inflateFits hinf hsub
      omega
  case h_3 => exact Nat.zero_le _

/-- Along an arrow to another phase the work shrinks, whatever is left inside either (10_state.md R34). -/
theorem floor_add_span_lt {ph ph' : Phase} (l : Nat) (h : (ph, ph') ∈ engineArrows) (hne : ph ≠ ph') :
    ph'.floor l + ph'.span l < ph.floor l := by
  fin_cases h
  any_goals exact absurd rfl hne
  all_goals
    simp only [Phase.floor, Phase.span]
    omega

/-! ## STRIP goes forward in the payload -/

/-- A turn that does not leave STRIP strips a record, and its size field alone moves `IN_POS` (41_framing.md R144). -/
theorem stripTurn_forward (hcfg : s.cfg.wf) (hpay : s.payloadFits) (hs : s.stripFits) :
    (stripTurn s).Sat (fun _ t => t.phase = .strip → s.inPos < t.inPos) (fun _ _ => True) fun _ => False := by
  obtain hend | hcut | h4 : s.p ≤ s.inPos ∨ (s.inPos < s.p ∧ s.p < s.inPos + 4) ∨ s.inPos + 4 ≤ s.p := by
    omega
  · rw [stripTurn_end hend]
    exact nofun
  · rw [stripTurn_cutShort hcut.1 hcut.2]
    trivial
  have hroom := stripFits_room hcfg hpay hs h4
  obtain ⟨-, hwin, hcap⟩ := hpay
  rw [stripTurn_sized (by omega) h4]
  split
  · trivial
  have hrec := stripRecord_sat (s := { s with inPos := s.inPos + 4 }) (z := s.le .inB (5 + s.inPos) 4)
    (by dsimp only; omega) (by dsimp only; omega)
  refine (hrec.mono (fun _ _ h => h) (fun _ _ _ => trivial) fun _ h => h).andThen ?_
  rintro - t ⟨m, rfl, -⟩ -
  dsimp only
  omega

theorem fetchStrip_forward (hph : s.phase = .strip) (hcfg : s.cfg.wf) (hpay : s.payloadFits) (h2 : 2 ≤ s.p)
    (hs : s.stripFits) : Leads (fun t => t.phase = .strip → s.inPos < t.inPos) (fetchStrip s) := by
  refine readHeader_leads (payloadFits_header hpay h2) fun v => ?_
  rw [headerRow_strip hph]
  exact (stripTurn_forward hcfg hpay hs).reaches (fun _ ht => ht) fun _ _ _ => nofun

/-! ## The rows of INFLATE go forward in the stream -/

/-- From `s` to `t` INFLATE has gone forward: in the same stream, `BITPOS` not moved back, and not to its own start. -/
structure Forward (s t : State) : Prop where
  stream : t.zLen = s.zLen
  bits : s.bitPos ≤ t.bitPos
  begun : s.sub ≠ .entry → t.sub ≠ .entry

theorem Forward.refl (s : State) : Forward s s := ⟨rfl, le_refl _, id⟩

theorem Forward.trans {u : State} (h : Forward s t) (h' : Forward t u) : Forward s u :=
  ⟨h'.stream.trans h.stream, h.bits.trans h'.bits, h'.begun ∘ h.begun⟩

theorem Advanced.forward (h : Advanced s t) : Forward s t := by
  obtain ⟨k, hk, rfl⟩ := h
  exact ⟨rfl, hk, id⟩

theorem Produced.forward (h : Produced s t) : Forward s t := by
  have hbits := h.bits
  rw [h.same]
  exact ⟨rfl, hbits, id⟩

/-- A next state inside INFLATE is further on. -/
def StaysForward (s t : State) : Prop := t.phase = .inflate → Forward s t

/-- An operation that goes forward in the stream where it is complete. -/
abbrev GoesForward (s : State) (r : Res Unit) : Prop :=
  r.Sat (fun _ t => Forward s t) (fun _ _ => True) fun _ => False

theorem GoesForward.reaches {r : Res Unit} (h : GoesForward s r) : Reaches (StaysForward s) r.toOutcome :=
  Res.Sat.reaches h (fun _ ht _ => ht) fun _ _ _ => nofun

/-- An operation that begins with extra bits (42_deflate.md R163). -/
theorem getbits_forward {n : Nat} {k : Nat → State → Res Unit} (hz : s.zInside)
    (hk : ∀ v t, t.zInside → GoesForward t (k v t)) : GoesForward s ((getbits n s).andThen k) := by
  refine ((getbits_sat n hz).mono (fun _ _ h => h) (fun _ _ _ => trivial) fun _ h => h).andThen ?_
  rintro v t ⟨-, rfl, -⟩
  have hadv : Advanced s { s with bitPos := s.bitPos + n } := ⟨_, Nat.le_add_right _ _, rfl⟩
  exact (hk v { s with bitPos := s.bitPos + n } hz).mono_ok fun _ _ h => hadv.forward.trans h

theorem reaches_raise_forward (s : State) (e : ErrCode) (t : State) :
    Reaches (StaysForward s) (.next (takeError e t)) := reaches_next nofun

theorem storedBlock_forward (hs : Inflating s) : GoesForward s (storedBlock s) := by
  refine (storedBlock_sat hs.stream hs.wanted hs.room).mono ?_ (fun _ _ _ => trivial) fun _ h => h
  rintro - t ⟨u, hu, ⟨rfl, -⟩ | ⟨rfl, -⟩⟩
  · exact hu.forward
  · exact ⟨hu.forward.stream, hu.bits, nofun⟩

theorem dynamicBlock_forward (hs : Inflating s) : GoesForward s (dynamicBlock s) := by
  refine (dynamicBlock_sat hs.stream).mono ?_ (fun _ _ _ => trivial) fun _ h => h
  rintro - t ⟨ht, hbits, -⟩
  rw [ht]
  exact ⟨rfl, hbits, nofun⟩

/-- A block header's row (30_encoding.md R98). -/
theorem selectBlkhdr_forward (hs : Inflating s) {v : Nat} (hv : v < 4) :
    Leads (StaysForward s) (select .blkhdr v s) := by
  match v, hv with
  | 0, _ => exact leads_select (i := .stored) rfl (storedBlock_forward hs).reaches
  | 1, _ => exact leads_select (i := .fixed) rfl (reaches_next fun _ => ⟨rfl, le_refl _, nofun⟩)
  | 2, _ => exact leads_select (i := .dynamic) rfl (dynamicBlock_forward hs).reaches
  | 3, _ => exact leads_select (i := .btypeReserved) rfl (reaches_raise_forward s _ _)

theorem appendLens_forward (v r : Nat) (s : State) : GoesForward s (appendLens v r s) := by
  rcases Nat.lt_or_ge (s.lens.length + r) (s.nlen + s.ndist) with hmore | hlast
  · rw [appendLens_more hmore]
    exact ⟨rfl, le_refl _, id⟩
  · rw [appendLens_last hlast]
    refine (buildTables_sat _).mono ?_ (fun _ _ _ => trivial) fun _ h => h
    rintro - t ⟨ht, -⟩
    rw [ht]
    exact ⟨rfl, le_refl _, nofun⟩

/-- A code-length symbol with extra bits (42_deflate.md R175). -/
theorem repeatSymbol_forward (hs : Inflating s) (v base extra : Nat) :
    GoesForward s ((getbits extra s).andThen fun e t => repeatLens v (base + e) t) := by
  refine getbits_forward hs.stream fun e t _ => ?_
  rcases repeatLens_cases v (base + e) t with ⟨-, he⟩ | ⟨-, he⟩ <;> rw [he]
  · trivial
  · exact appendLens_forward v (base + e) t

/-- A code-length symbol's row (30_encoding.md R104). -/
theorem selectClsym_forward (hs : Inflating s) {v : Nat} (hv : v < 19) :
    Leads (StaysForward s) (select .clsym v s) := by
  by_cases hlit : v < 16
  · exact leads_select (i := .cl0to15 v) (by simp [decode, decodeClsym, hlit]) (appendLens_forward v 1 s).reaches
  obtain rfl | rfl | rfl : v = 16 ∨ v = 17 ∨ v = 18 := by omega
  · refine leads_select (i := .cl16) rfl ?_
    simp only [exec, execCl16]
    split
    · exact reaches_raise_forward s _ _
    · exact (repeatSymbol_forward hs _ 3 2).reaches
  · exact leads_select (i := .cl17) rfl (repeatSymbol_forward hs 0 3 3).reaches
  · exact leads_select (i := .cl18) rfl (repeatSymbol_forward hs 0 11 7).reaches

theorem execLit_forward (hs : Inflating s) (b : Byte) : Reaches (StaysForward s) (execLit b s) := by
  refine GoesForward.reaches (((emit_sat hs.wanted hs.room).mono (fun _ _ h => h) (fun _ _ _ => trivial)
    fun _ h => h).andThen ?_)
  exact fun _ _ ⟨ht, _⟩ => ht.forward

theorem execEob_forward (s : State) : Reaches (StaysForward s) (execEob s) := by
  unfold execEob
  rcases endBlock_cases s with ⟨-, he⟩ | ⟨-, he⟩ <;> rw [he]
  · exact reaches_raise_forward s _ _
  · exact reaches_next fun _ => ⟨rfl, le_refl _, nofun⟩

theorem matchLength_forward (hs : Inflating s) (base extra : Nat) : GoesForward s (matchLength base extra s) :=
  getbits_forward hs.stream fun _ _ _ => ⟨rfl, le_refl _, nofun⟩

/-- A literal/length symbol's row (30_encoding.md R101). -/
theorem selectLitlen_forward (hs : Inflating s) {v : Nat} (hv : v < 288) :
    Leads (StaysForward s) (select .litlen v s) := by
  by_cases hlit : v < 256
  · exact leads_select (i := .lit (BitVec.ofNat 8 v)) (by simp [decode, decodeLitlen, hlit]) (execLit_forward hs _)
  obtain rfl | ⟨h1, h2⟩ | rfl | rfl : v = 256 ∨ (257 ≤ v ∧ v < 286) ∨ v = 286 ∨ v = 287 := by omega
  · exact leads_select (i := .eob) rfl (execEob_forward s)
  · obtain ⟨i, extra, base, hrow⟩ := lengthRows_cover h1 h2
    exact leads_select (decode_lengthRow hrow) (exec_lengthRow hrow s ▸ (matchLength_forward hs base extra).reaches)
  · exact leads_select (i := .litlenInvalid 286) rfl (reaches_raise_forward s _ _)
  · exact leads_select (i := .litlenInvalid 287) rfl (reaches_raise_forward s _ _)

theorem matchDistance_forward (hs : Inflating s) {base : Nat} (hb : 1 ≤ base) (extra : Nat) :
    GoesForward s (matchDistance base extra s) := by
  refine (matchDistance_sat base extra hb hs.stream hs.wanted hs.room).mono ?_ (fun _ _ _ => trivial) fun _ h => h
  rintro - t ⟨u, hu, ⟨rfl, -⟩ | ⟨rfl, -⟩⟩
  · exact hu.forward
  · exact ⟨hu.forward.stream, hu.bits, nofun⟩

/-- A distance symbol's row (30_encoding.md R103). -/
theorem selectDist_forward (hs : Inflating s) {v : Nat} (hv : v < 32) : Leads (StaysForward s) (select .dist v s) := by
  obtain hlt | rfl | rfl : v < 30 ∨ v = 30 ∨ v = 31 := by omega
  · obtain ⟨i, extra, base, hrow⟩ := distanceRows_cover hlt
    exact leads_select (decode_distanceRow hrow)
      (exec_distanceRow hrow s ▸ (matchDistance_forward hs (distanceRow_base_pos hrow) extra).reaches)
  · exact leads_select (i := .distInvalid 30) rfl (reaches_raise_forward s _ _)
  · exact leads_select (i := .distInvalid 31) rfl (reaches_raise_forward s _ _)

/-! ## Every element of INFLATE costs a bit -/

theorem Reaches.mono {P Q : State → Prop} {o : Host.Outcome State Fault Refusal} (h : Reaches P o)
    (hPQ : ∀ t, P t → Q t) : Reaches Q o := by
  obtain ⟨t, rfl, ht⟩ := h
  exact reaches_next (hPQ t ht)

theorem Leads.mono {P Q : State → Prop} {r : Res (Option Instr)} (h : Leads P r) (hPQ : ∀ t, P t → Q t) :
    Leads Q r := by
  refine Res.Sat.mono h (fun i t ht => ?_) (fun e t ht => hPQ _ ht) fun _ hf => hf
  cases i with
  | none => exact hPQ t ht
  | some i => exact Reaches.mono ht hPQ

/-- From `s` to `t` the work left inside the phase has shrunk, if `t` is in INFLATE still. -/
def Shortens (s t : State) : Prop := t.phase = .inflate → t.left < s.left

theorem shortens_takeError (s : State) (e : ErrCode) (t : State) : Shortens s (takeError e t) := nofun

/-- What runs after at least one bit of the stream has been read. -/
theorem Leads.shortens {r : Res (Option Instr)} (h : Leads (StaysForward t) r) (hph : s.phase = .inflate)
    (hsub : s.sub ≠ .entry) (hread : Forward s t) (hlt : s.bitPos < t.bitPos) (hend : t.bitPos ≤ 8 * s.zLen) :
    Leads (Shortens s) r := by
  refine h.mono fun u hu hinf => ?_
  obtain ⟨hstream, -, hbegun⟩ := hread.trans (hu hinf)
  have hbits := (hu hinf).bits
  rw [left_inflate hph hsub, left_inflate hinf (hbegun hsub), hstream]
  omega

/-- The start of INFLATE costs one step before the bits of the stream (42_deflate.md R160). -/
theorem inflateEntry_shortens (hph : s.phase = .inflate) (hsub : s.sub = .entry) (hpay : s.payloadFits)
    (hentry : s.isObf = true → s.rbLen ≤ s.cfg.rbCap ∧ s.rbLen ≤ s.p) : Shortens s (inflateEntry s) := by
  intro hinf
  obtain ⟨-, hwin, -⟩ := hpay
  have hn : s.n ≠ 0 := by
    intro hn
    simp only [inflateEntry_eq hph hsub, hn, if_true, reduceCtorEq] at hinf
  have hlen : (if s.isObf = true then s.rbLen else s.p) ≤ s.p := by
    split
    case isTrue ho => exact (hentry ho).2
    case isFalse => exact le_refl _
  rw [left_entry hph hsub, inflateEntry_eq hph hsub, left_inflate (if_neg hn) (by simp only [hn, if_false]; nofun)]
  dsimp only
  omega

/-- A block header has three bits (42_deflate.md R166). -/
theorem readBlockHeader_shortens (hs : Inflating s) (hsub : s.sub = .header) :
    Leads (Shortens s) ((readBlockHeader s).andThen fun v t => select .blkhdr v t) := by
  obtain hshort | hread : 8 * s.zLen < s.bitPos + 3 ∨ s.bitPos + 3 ≤ 8 * s.zLen := by omega
  · obtain ⟨m, f, he⟩ := readBlockHeader_short hs.stream hshort
    rw [he]
    exact leads_err (shortens_takeError s _ _)
  · rw [readBlockHeader_inside hs.stream hread, Res.andThen_ok]
    generalize hv : s.zField (s.bitPos + 1) 2 = v
    have hrow := selectBlkhdr_forward (v := v)
      (s := { s with bitPos := s.bitPos + 3, bfinal := s.zBit s.bitPos, btype := v })
      ⟨hs.phase, hs.stream, hs.wanted, hs.room⟩ (hv ▸ zField_lt s _ 2)
    exact hrow.shortens hs.phase (hsub.trans_ne nofun) ⟨rfl, Nat.le_add_right _ _, id⟩
      (Nat.lt_add_of_pos_right (by decide)) hread

/-- A codeword has at least one bit (42_deflate.md R171). -/
theorem readSymbol_shortens (hs : Inflating s) (hsub : s.sub ≠ .entry) {lens : List Nat} {size : Nat} {f : Format}
    (hlen : lens.length = size)
    (hrow : ∀ t, Inflating t → ∀ v < size, Leads (StaysForward t) (select f v t)) :
    Leads (Shortens s) ((readSymbol lens s).andThen fun v t => select f v t) := by
  refine (readSymbol_sat lens hs.stream).leads ?_ fun e t _ => shortens_takeError s e t
  rintro v t ⟨hv, hadv, hlt, hend⟩
  exact (hrow t (hadv.inflating hs) v (hlen ▸ hv)).shortens hs.phase hsub hadv.forward hlt hend

/-- The next action of INFLATE shortens what is left of the phase or leaves it (42_deflate.md R185). -/
theorem fetchInflate_shortens (hph : s.phase = .inflate) (htab : s.TablesFit) (hpay : s.payloadFits)
    (hform : s.formatFits) (hi : s.inflateFits) : Leads (Shortens s) (fetchInflate s) := by
  obtain ⟨-, -, -, -, hroom, -⟩ := hform
  have inflating : s.streamFits → Inflating s := fun ⟨hz, _, hwant⟩ => ⟨hph, hz, hwant, hroom⟩
  unfold State.inflateFits at hi
  unfold fetchInflate
  cases hsub : s.sub <;> simp only [hsub] at hi ⊢
  case entry => exact leads_none (inflateEntry_shortens hph hsub hpay hi)
  case header => exact readBlockHeader_shortens (inflating hi) hsub
  case codeLens =>
    exact readSymbol_shortens (inflating hi.1) (hsub.trans_ne nofun) htab.clLen.1 fun _ ht _ => selectClsym_forward ht
  case litlen =>
    exact readSymbol_shortens (inflating hi) (hsub.trans_ne nofun) htab.llLen.1 fun _ ht _ => selectLitlen_forward ht
  case dist =>
    exact readSymbol_shortens (inflating hi.1) (hsub.trans_ne nofun) htab.dLen.1 fun _ ht _ => selectDist_forward ht

/-! ## Every step shrinks the work -/

/-- Only STRIP and INFLATE take more than one step (log 1). -/
theorem phase_of_loop {ph : Phase} (h : (ph, ph) ∈ engineArrows) : ph = .strip ∨ ph = .inflate := by
  revert h
  cases ph <;> decide

/-- In the engine's turn the step leads where the next action does. -/
theorem Leads.of_nextAction {P : State → Prop} {r : Res (Option Instr)} (h : Leads P r) (hnext : nextAction s = r)
    (hturn : s.engineTurn = true) (ht : Machine.step s = .next t) : P t := by
  rw [← hnext, ← fetch_engineTurn hturn] at h
  obtain ⟨u, hu, hP⟩ := h.step
  rwa [Host.Outcome.next.inj (ht.symm.trans hu)]

/-- A step that stays in its phase leaves less to do in it. -/
theorem step_left_lt (hinv : s.Inv) (hturn : s.engineTurn = true) (ht : step s = .next t) (hin : t.inLen = s.inLen)
    (hph : s.phase = .strip ∨ s.phase = .inflate) (hsame : t.phase = s.phase) : t.left < s.left := by
  have hfits := hinv.phase
  unfold State.phaseFits at hfits
  rcases hph with hph | hph <;> simp only [hph] at hfits
  · obtain ⟨hpay, -, h2, hstrip⟩ := hfits
    have hlead := fetchStrip_forward hph hinv.cfg hpay h2 hstrip
    have hpos := hlead.of_nextAction (nextAction_strip hph) hturn ht (hsame.trans hph)
    obtain ⟨-, hwin, -⟩ := hpay
    obtain ⟨hle, -⟩ := hstrip
    rw [left_strip hph, left_strip (hsame.trans hph), hin]
    omega
  · obtain ⟨hpay, hform, hinf⟩ := hfits
    have hlead := fetchInflate_shortens hph hinv.tables hpay hform hinf
    exact hlead.of_nextAction (nextAction_inflate hph) hturn ht (hsame.trans hph)

/-- Every step of a decode shrinks the work that is left. -/
theorem step_work_lt (hinv : s.Inv) (hturn : s.engineTurn = true) (ht : step s = .next t) : t.work < s.work := by
  obtain ⟨u, hu, harrow⟩ := step_engineTurn_reaches hinv hturn
  obtain rfl : t = u := Host.Outcome.next.inj (ht.symm.trans hu)
  obtain ⟨hinputs, -⟩ := step_keeps_readOnly hinv hturn ht
  obtain ⟨-, -, -, -, -, hin, -⟩ := inputsKept_iff.2 hinputs
  unfold Follows at harrow
  unfold State.work
  rw [hin]
  by_cases hsame : s.phase = t.phase
  · have hleft := step_left_lt hinv hturn ht hin (phase_of_loop (by rwa [← hsame] at harrow)) hsame.symm
    rw [hsame]
    omega
  · have hspan := left_le_span (step_keeps_inv hinv ht)
    rw [hin] at hspan
    have hlt := floor_add_span_lt s.inLen.toNat harrow hsame
    omega

/-! ## To the end of the decode -/

/-- No arrow of the engine leads to IDLE (10_state.md R34). -/
theorem ne_idle_of_arrow {ph ph' : Phase} (h : (ph, ph') ∈ engineArrows) : ph' ≠ .idle := by
  rintro rfl
  revert h
  cases ph <;> decide

/-- A well-formed engine in DONE or ERROR shows that its decode has ended (00_scope.md R18). -/
theorem State.Inv.ended (h : s.Inv) (hph : s.phase = .done ∨ s.phase = .error) : s.ended := by
  obtain ⟨hbusy, hdone, herror, -⟩ := statusAllowed_bits h.status
  unfold State.ended State.busy State.isDone State.isError
  rcases hph with hph | hph <;> rw [hph] at hbusy hdone herror
  · exact ⟨hbusy, .inl ⟨hdone.2 rfl, Bool.eq_false_iff.2 fun he => absurd (herror.1 he) nofun⟩⟩
  · exact ⟨hbusy, .inr ⟨Bool.eq_false_iff.2 fun hd => absurd (hdone.1 hd) nofun, herror.2 rfl⟩⟩

/-- An engine that is neither idle nor running has ended its decode (10_state.md R34). -/
theorem ended_of_not_running {ph : Phase} (hidle : ph ≠ .idle) (hrun : ¬ph.running = true) :
    ph = .done ∨ ph = .error := by
  revert hidle hrun
  cases ph <;> decide

/-- A decode with no host move pending ends within as many steps as its work, by induction on the work. -/
theorem ends_within_work (hinv : s.Inv) (hhost : s.host = []) (hidle : s.phase ≠ .idle) :
    ∃ k t, k ≤ s.work ∧ stepsTo k s t ∧ t.Inv ∧ (t.phase = .done ∨ t.phase = .error) := by
  induction hw : s.work using Nat.strong_induction_on generalizing s with
  | _ n ih =>
    by_cases hrun : s.phase.running = true
    case neg => exact ⟨0, s, Nat.zero_le n, rfl, hinv, ended_of_not_running hidle hrun⟩
    have hturn : s.engineTurn = true := by simp only [State.engineTurn, hhost, hrun, Bool.and_true]
    obtain ⟨u, hu, harrow⟩ := step_engineTurn_reaches hinv hturn
    have hwork := step_work_lt hinv hturn hu
    obtain ⟨hinputs, -⟩ := step_keeps_readOnly hinv hturn hu
    obtain ⟨-, -, -, -, -, -, -, -, -, hhost', -⟩ := inputsKept_iff.2 hinputs
    obtain ⟨k, t, hk, hsteps, hend⟩ := ih u.work (hw ▸ hwork) (step_keeps_inv hinv hu) (hhost'.trans hhost)
      (ne_idle_of_arrow harrow) rfl
    exact ⟨k + 1, t, by omega, ⟨u, hu, hsteps⟩, hend⟩

theorem work_fetch (h : s.phase = .fetch) : s.work = 9 * s.inLen.toNat + 7 := by
  simp only [State.work, State.left, h, Phase.floor, Nat.add_zero]

end

end Sys2Proof.Machine

namespace Sys2Proof.Proofs
open Sys2Proof.Machine

/-- Settles O54: every step shrinks the work left, by the arrows of the sequencer from phase to phase, by the size field
of a record in STRIP, and by at least one bit of the stream in INFLATE; at the start of FETCH it is `9 * IN_LEN + 7`. -/
theorem decodeEnds : Obligations.DecodeEnds := by
  intro s hinv hph hhost
  obtain ⟨k, t, hk, hsteps, ht, hend⟩ := ends_within_work hinv hhost (hph.trans_ne nofun)
  rw [work_fetch hph] at hk
  exact ⟨k, t, by omega, hsteps, ht.ended hend, hend⟩

end Sys2Proof.Proofs
end
